-- ==== Sys2Proof/Word.lean ====
section
/-! DEFINITION. The value types of the core: the widths of R7 and R11 (00_scope.md), the masked types of R13, and the
register identifiers of R14. -/

namespace Sys2Proof

/-- `u8`: a register, a timer, a memory byte (R7, R11). -/
abbrev Byte := BitVec 8

/-- `u16`: an instruction word, the program counter, a return address (R7, R11). -/
abbrev Word := BitVec 16

/-- `u12`: an address operand `nnn` and the index register, masked to 12 bits on every write (R13, R110). -/
abbrev Addr := BitVec 12

/-- `u4`: a nibble operand, a key identifier (R11, R13, R152). -/
abbrev Nibble := BitVec 4

/-- A register identifier, one of V0..VF, by its 4-bit index (R14: "a total, bidirectional mapping to 4-bit indices"). -/
abbrev Reg := BitVec 4

/-- VF is register 15 (R14, R101). -/
abbrev Reg.vf : Reg := 0xF#4

/-- The flag values written to VF: 1 or 0. -/
def flagByte (b : Bool) : Byte := if b then 1#8 else 0#8

end Sys2Proof
end

