-- ==== Sys2Proof/Syntax.lean ====
section
/-! DEFINITION. The decoded instruction: the closed union of R313 (30_encoding.md), one constructor per row of R310
(spec/opcode_table.json), with the operand types of R313. -/

namespace Sys2Proof

/-- The 34 instructions, in the order of R310. -/
inductive Instr where
  | cls
  | ret
  | jp (nnn : Addr)
  | call (nnn : Addr)
  | seq (x : Reg) (kk : Byte)
  | snelit (x : Reg) (kk : Byte)
  | se (x y : Reg)
  | ldl (x : Reg) (kk : Byte)
  | addl (x : Reg) (kk : Byte)
  | ld (x y : Reg)
  | or (x y : Reg)
  | and (x y : Reg)
  | xor (x y : Reg)
  | addc (x y : Reg)
  | subc (x y : Reg)
  | shrc (x y : Reg)
  | subn (x y : Reg)
  | shlc (x y : Reg)
  | sne (x y : Reg)
  | ldi (nnn : Addr)
  | jpl (nnn : Addr)
  | rnd (x : Reg) (kk : Byte)
  | drw (x y : Reg) (n : Nibble)
  | skp (x : Reg)
  | sknp (x : Reg)
  | movdt (x : Reg)
  | ldkb (x : Reg)
  | lddt (x : Reg)
  | ldst (x : Reg)
  | addi (x : Reg)
  | ldspr (x : Reg)
  | ldbcd (x : Reg)
  | pushreg (x : Reg)
  | popreg (x : Reg)
  deriving DecidableEq, Repr

/-- The mnemonic of an instruction, as R310 spells it. -/
def Instr.mnemonic : Instr → String
  | .cls => "CLS"
  | .ret => "RET"
  | .jp _ => "JP"
  | .call _ => "CALL"
  | .seq _ _ => "SEQ"
  | .snelit _ _ => "SNELIT"
  | .se _ _ => "SE"
  | .ldl _ _ => "LDL"
  | .addl _ _ => "ADDL"
  | .ld _ _ => "LD"
  | .or _ _ => "OR"
  | .and _ _ => "AND"
  | .xor _ _ => "XOR"
  | .addc _ _ => "ADDC"
  | .subc _ _ => "SUBC"
  | .shrc _ _ => "SHRC"
  | .subn _ _ => "SUBN"
  | .shlc _ _ => "SHLC"
  | .sne _ _ => "SNE"
  | .ldi _ => "LDI"
  | .jpl _ => "JPL"
  | .rnd _ _ => "RND"
  | .drw _ _ _ => "DRW"
  | .skp _ => "SKP"
  | .sknp _ => "SKNP"
  | .movdt _ => "MOVDT"
  | .ldkb _ => "LDKB"
  | .lddt _ => "LDDT"
  | .ldst _ => "LDST"
  | .addi _ => "ADDI"
  | .ldspr _ => "LDSPR"
  | .ldbcd _ => "LDBCD"
  | .pushreg _ => "PUSHREG"
  | .popreg _ => "POPREG"

/-- Why a word is not an instruction (R306). -/
inductive DecodeError where
  /-- "the full instruction word did not match any pattern": families 0x0, 0xE and 0xF (R306, D22). -/
  | unknownOpcode (word : Word)
  /-- Family 0x8 with a sub-operation outside the nine (R306). -/
  | unknownSubcode (family op : Nibble)
  /-- Kept as the source keeps it; no word raises it (R307, D37; DESIGN CHOICE, safe:
  notes/assumptions/10.md). -/
  | invalidRegister (word : Word) (nibble : Nibble)
  deriving DecidableEq, Repr

end Sys2Proof
end

