-- ==== Sys2Proof/WellFormed.lean ====
section
/-! DEFINITION. Well-formedness. Every operand of Instr has the exact type R313 gives it (00_scope.md R13: construction of a
masked value never fails), so every term of Instr is a well-formed instruction; the checks that can fail are those on raw
words (R310, R312), on a table row, and on a program image (R1201 of 70_reset_and_hazards.md). -/

namespace Sys2Proof

/-- One row of the opcode table (R310): a word w selects the row when w & mask == match. -/
structure OpcodeRow where
  mnemonic : String
  pattern : Word
  mask : Word
  deriving DecidableEq, Repr

/-- `w & mask == match` (R310). -/
def OpcodeRow.selects (r : OpcodeRow) (w : Word) : Bool := w &&& r.mask == r.pattern

/-- A row fixes only bits that its mask examines. -/
def OpcodeRow.wellFormed (r : OpcodeRow) : Bool := r.pattern &&& r.mask == r.pattern

/-- No word selects both rows: some bit that both examine is fixed differently. -/
def OpcodeRow.disjoint (r q : OpcodeRow) : Bool := (r.pattern ^^^ q.pattern) &&& (r.mask &&& q.mask) != 0#16

/-- Rows of R310, families 0x0 to 0x7. -/
def opcodeRows0to7 : List OpcodeRow :=
  [ ⟨"CLS", 0x00E0#16, 0xFFFF#16⟩
  , ⟨"RET", 0x00EE#16, 0xFFFF#16⟩
  , ⟨"JP", 0x1000#16, 0xF000#16⟩
  , ⟨"CALL", 0x2000#16, 0xF000#16⟩
  , ⟨"SEQ", 0x3000#16, 0xF000#16⟩
  , ⟨"SNELIT", 0x4000#16, 0xF000#16⟩
  , ⟨"SE", 0x5000#16, 0xF000#16⟩
  , ⟨"LDL", 0x6000#16, 0xF000#16⟩
  , ⟨"ADDL", 0x7000#16, 0xF000#16⟩ ]

/-- Rows of R310, family 0x8. -/
def opcodeRows8 : List OpcodeRow :=
  [ ⟨"LD", 0x8000#16, 0xF00F#16⟩
  , ⟨"OR", 0x8001#16, 0xF00F#16⟩
  , ⟨"AND", 0x8002#16, 0xF00F#16⟩
  , ⟨"XOR", 0x8003#16, 0xF00F#16⟩
  , ⟨"ADDC", 0x8004#16, 0xF00F#16⟩
  , ⟨"SUBC", 0x8005#16, 0xF00F#16⟩
  , ⟨"SHRC", 0x8006#16, 0xF00F#16⟩
  , ⟨"SUBN", 0x8007#16, 0xF00F#16⟩
  , ⟨"SHLC", 0x800E#16, 0xF00F#16⟩ ]

/-- Rows of R310, families 0x9 to 0xE. -/
def opcodeRows9toE : List OpcodeRow :=
  [ ⟨"SNE", 0x9000#16, 0xF000#16⟩
  , ⟨"LDI", 0xA000#16, 0xF000#16⟩
  , ⟨"JPL", 0xB000#16, 0xF000#16⟩
  , ⟨"RND", 0xC000#16, 0xF000#16⟩
  , ⟨"DRW", 0xD000#16, 0xF000#16⟩
  , ⟨"SKP", 0xE09E#16, 0xF0FF#16⟩
  , ⟨"SKNP", 0xE0A1#16, 0xF0FF#16⟩ ]

/-- Rows of R310, family 0xF. -/
def opcodeRowsF : List OpcodeRow :=
  [ ⟨"MOVDT", 0xF007#16, 0xF0FF#16⟩
  , ⟨"LDKB", 0xF00A#16, 0xF0FF#16⟩
  , ⟨"LDDT", 0xF015#16, 0xF0FF#16⟩
  , ⟨"LDST", 0xF018#16, 0xF0FF#16⟩
  , ⟨"ADDI", 0xF01E#16, 0xF0FF#16⟩
  , ⟨"LDSPR", 0xF029#16, 0xF0FF#16⟩
  , ⟨"LDBCD", 0xF033#16, 0xF0FF#16⟩
  , ⟨"PUSHREG", 0xF055#16, 0xF0FF#16⟩
  , ⟨"POPREG", 0xF065#16, 0xF0FF#16⟩ ]

/-- The complete opcode table (R310): 34 rows. -/
def opcodeTable : List OpcodeRow := opcodeRows0to7 ++ opcodeRows8 ++ opcodeRows9toE ++ opcodeRowsF

/-- A word is legal when it selects a row of the table (R310, R312). -/
def legalWord (w : Word) : Bool := opcodeTable.any (·.selects w)

/-- The longest program image: 0xC00 bytes, so that it fits [0x200, 0xE00) (R8, R1201, 90_conflicts.md C7). -/
def maxProgramLength : Nat := 0xC00

/-- The length precondition of construction (R1201). -/
def programFits (program : List Byte) : Bool := program.length ≤ maxProgramLength

end Sys2Proof
end

