-- ==== Sys2Proof/Decode.lean ====
section
/-! DEFINITION. The decoder (R301, R305, R306 of 30_encoding.md) and the encoder, each written from the encoding tables of the spec
(R302, R310), and the host's entry decodeTableWord. -/

namespace Sys2Proof

/-! ### Fields of a word (R12, R16, R301) -/

/-- `nibble(v, k)` is bits `[4k+3 : 4k]` (R12). -/
def nibble (w : Word) (k : Nat) : Nibble := w.extractLsb' (4 * k) 4

/-- The family nibble, w[15:12]. -/
def fieldH (w : Word) : Nibble := nibble w 3

/-- The first register selector, w[11:8]. -/
def fieldX (w : Word) : Reg := nibble w 2

/-- The second register selector, w[7:4]. -/
def fieldY (w : Word) : Reg := nibble w 1

/-- The sub-operation or sprite height, w[3:0]. -/
def fieldN (w : Word) : Nibble := nibble w 0

/-- The literal or sub-operation byte, w[7:0]. -/
def fieldKK (w : Word) : Byte := w.extractLsb' 0 8

/-- The address, w[11:0]. -/
def fieldNNN (w : Word) : Addr := w.extractLsb' 0 12

/-! ### The decoder (R305) -/

/-- Family 0x8: nine sub-operations, the rest UnknownSubcode (R305, R306). -/
def decodeFamily8 (x y : Reg) (n : Nibble) : Except DecodeError Instr :=
  if n = 0x0#4 then .ok (.ld x y)
  else if n = 0x1#4 then .ok (.or x y)
  else if n = 0x2#4 then .ok (.and x y)
  else if n = 0x3#4 then .ok (.xor x y)
  else if n = 0x4#4 then .ok (.addc x y)
  else if n = 0x5#4 then .ok (.subc x y)
  else if n = 0x6#4 then .ok (.shrc x y)
  else if n = 0x7#4 then .ok (.subn x y)
  else if n = 0xE#4 then .ok (.shlc x y)
  else .error (.unknownSubcode 0x8#4 n)

/-- Family 0xE: two sub-operation bytes, the rest UnknownOpcode (R305, D22). -/
def decodeFamilyE (w : Word) (x : Reg) (kk : Byte) : Except DecodeError Instr :=
  if kk = 0x9E#8 then .ok (.skp x)
  else if kk = 0xA1#8 then .ok (.sknp x)
  else .error (.unknownOpcode w)

/-- Family 0xF: nine sub-operation bytes, the rest UnknownOpcode (R305, D22). -/
def decodeFamilyF (w : Word) (x : Reg) (kk : Byte) : Except DecodeError Instr :=
  if kk = 0x07#8 then .ok (.movdt x)
  else if kk = 0x0A#8 then .ok (.ldkb x)
  else if kk = 0x15#8 then .ok (.lddt x)
  else if kk = 0x18#8 then .ok (.ldst x)
  else if kk = 0x1E#8 then .ok (.addi x)
  else if kk = 0x29#8 then .ok (.ldspr x)
  else if kk = 0x33#8 then .ok (.ldbcd x)
  else if kk = 0x55#8 then .ok (.pushreg x)
  else if kk = 0x65#8 then .ok (.popreg x)
  else .error (.unknownOpcode w)

/-- Family 0x0: CLS and RET, the rest UnknownOpcode, 0x0000 and the historical SYS among them (R305, R309). -/
def decodeFamily0 (w : Word) : Except DecodeError Instr :=
  if w = 0x00E0#16 then .ok .cls
  else if w = 0x00EE#16 then .ok .ret
  else .error (.unknownOpcode w)

/-- The decode function (R305): exhaustive over the high nibble, with further dispatch in the families 0x0, 0x8, 0xE and
0xF only; SE and SNE do not examine n (R308; PRESUMED with D18, D20, D21, unsafe:
notes/assumptions/11.md). -/
def decode (w : Word) : Except DecodeError Instr :=
  match (fieldH w).toNat with
  | 0x0 => decodeFamily0 w
  | 0x1 => .ok (.jp (fieldNNN w))
  | 0x2 => .ok (.call (fieldNNN w))
  | 0x3 => .ok (.seq (fieldX w) (fieldKK w))
  | 0x4 => .ok (.snelit (fieldX w) (fieldKK w))
  | 0x5 => .ok (.se (fieldX w) (fieldY w))
  | 0x6 => .ok (.ldl (fieldX w) (fieldKK w))
  | 0x7 => .ok (.addl (fieldX w) (fieldKK w))
  | 0x8 => decodeFamily8 (fieldX w) (fieldY w) (fieldN w)
  | 0x9 => .ok (.sne (fieldX w) (fieldY w))
  | 0xA => .ok (.ldi (fieldNNN w))
  | 0xB => .ok (.jpl (fieldNNN w))
  | 0xC => .ok (.rnd (fieldX w) (fieldKK w))
  | 0xD => .ok (.drw (fieldX w) (fieldY w) (fieldN w))
  | 0xE => decodeFamilyE w (fieldX w) (fieldKK w)
  | _ => decodeFamilyF w (fieldX w) (fieldKK w)

/-- Big-endian composition: the byte at the lower address is bits w[15:8] (R202). -/
def composeWord (hi lo : Byte) : Word := hi ++ lo

/-- The decoder on the two bytes of an instruction, the lower address first (R202, R300). -/
def decodeBytes (hi lo : Byte) : Except DecodeError Instr := decode (composeWord hi lo)

/-! ### The encoder: the word of an instruction, by the patterns of R302 and R310 -/

/-- Format A: `h nnn`. -/
def wordA (h : Nibble) (nnn : Addr) : Word := h ++ nnn

/-- Format XK: `h x kk`. -/
def wordXK (h : Nibble) (x : Reg) (kk : Byte) : Word := (h ++ x : BitVec 8) ++ kk

/-- Formats XY, XYS and XYN: `h x y n`. -/
def wordXYN (h : Nibble) (x y : Reg) (n : Nibble) : Word := (h ++ x : BitVec 8) ++ (y ++ n : BitVec 8)

/-- The encoder. In SE and SNE it writes n = 0, as the assembler does (R314; DEDUCED, safe: notes/assumptions/13.md). -/
def encode : Instr → Word
  | .cls => 0x00E0#16
  | .ret => 0x00EE#16
  | .jp nnn => wordA 0x1#4 nnn
  | .call nnn => wordA 0x2#4 nnn
  | .seq x kk => wordXK 0x3#4 x kk
  | .snelit x kk => wordXK 0x4#4 x kk
  | .se x y => wordXYN 0x5#4 x y 0x0#4
  | .ldl x kk => wordXK 0x6#4 x kk
  | .addl x kk => wordXK 0x7#4 x kk
  | .ld x y => wordXYN 0x8#4 x y 0x0#4
  | .or x y => wordXYN 0x8#4 x y 0x1#4
  | .and x y => wordXYN 0x8#4 x y 0x2#4
  | .xor x y => wordXYN 0x8#4 x y 0x3#4
  | .addc x y => wordXYN 0x8#4 x y 0x4#4
  | .subc x y => wordXYN 0x8#4 x y 0x5#4
  | .shrc x y => wordXYN 0x8#4 x y 0x6#4
  | .subn x y => wordXYN 0x8#4 x y 0x7#4
  | .shlc x y => wordXYN 0x8#4 x y 0xE#4
  | .sne x y => wordXYN 0x9#4 x y 0x0#4
  | .ldi nnn => wordA 0xA#4 nnn
  | .jpl nnn => wordA 0xB#4 nnn
  | .rnd x kk => wordXK 0xC#4 x kk
  | .drw x y n => wordXYN 0xD#4 x y n
  | .skp x => wordXK 0xE#4 x 0x9E#8
  | .sknp x => wordXK 0xE#4 x 0xA1#8
  | .movdt x => wordXK 0xF#4 x 0x07#8
  | .ldkb x => wordXK 0xF#4 x 0x0A#8
  | .lddt x => wordXK 0xF#4 x 0x15#8
  | .ldst x => wordXK 0xF#4 x 0x18#8
  | .addi x => wordXK 0xF#4 x 0x1E#8
  | .ldspr x => wordXK 0xF#4 x 0x29#8
  | .ldbcd x => wordXK 0xF#4 x 0x33#8
  | .pushreg x => wordXK 0xF#4 x 0x55#8
  | .popreg x => wordXK 0xF#4 x 0x65#8

/-- The high byte of a word, stored at the lower address (R202). -/
def highByte (w : Word) : Byte := w.extractLsb' 8 8

/-- The low byte of a word, stored at the higher address (R202). -/
def lowByte (w : Word) : Byte := w.extractLsb' 0 8

/-- The bytes of a word as memory stores them, lowest address first (R202). -/
def wordBytes (w : Word) : List Byte := [highByte w, lowByte w]

/-- The word of an instruction whose low nbits bits are w, every bit above them 0; a CHIP-8 instruction has 16. -/
def tableWord (nbits w : Nat) : Word := BitVec.ofNat 16 (w % 2 ^ nbits)

/-- What the decoder reads from a word numbered as spec/opcode_table.json numbers it: the word is laid out as memory
stores it, high byte first, and its bytes are decoded. -/
def decodeTableWord (nbits w : Nat) : Option Instr :=
  match decodeBytes (highByte (tableWord nbits w)) (lowByte (tableWord nbits w)) with
  | .ok i => some i
  | .error _ => none

end Sys2Proof
end

