-- ==== Sys2Proof/Config.lean ====
section
/-! DEFINITION. What is fixed outside the core: the construction parameters of R8 (00_scope.md), and the free values a
host may supply at each strobe (R9; R151 to R154 and R160 of 10_state.md). -/

namespace Sys2Proof

/-- The quirk configuration (R8, R130): immutable after construction. -/
structure Quirks where
  /-- OR, AND and XOR write VF <- 0 (R711). -/
  vfReset : Bool
  /-- PUSHREG and POPREG advance I by x+1 (R804, R805). -/
  memory : Bool
  /-- SHRC and SHLC take their source from Vx; if false, from Vy (R730, R731). -/
  shifting : Bool
  deriving DecidableEq, Repr, Inhabited

/-- One turn of the host: what it does since the last step (R160: set or clear any key flag, write `halted`) and the
inputs it supplies with the strobe that follows (R152 to R154). The writes come before the strobe
(DESIGN CHOICE, safe: notes/assumptions/8.md). -/
structure HostTurn where
  /-- Key flags set (true) or cleared (false), in this order (R140, R160). -/
  keyWrites : List (Nibble × Bool)
  /-- A write of `halted`, if any (R125, R160). -/
  haltedWrite : Option Bool
  /-- The `key_event` input (R152). -/
  keyEvent : Option Nibble
  /-- The `tick_due` input (R153). -/
  tickDue : Bool
  /-- The `rand_byte` input (R154). -/
  randByte : Byte
  deriving DecidableEq, Repr, Inhabited

/-- A turn in which the host touches nothing and every input is at rest: the step inputs of 95_test_vectors.md's
conventions. -/
def HostTurn.quiet : HostTurn := ⟨[], none, none, false, 0#8⟩

/-- The quirks of the constructed core: a parameter the spec leaves open (R8, D17), so a constant with no body
(DESIGN CHOICE, safe: notes/assumptions/3.md). -/
opaque Config.quirks : Quirks

/-- The host's turn at a step for which no turn is scheduled: a free value (R9, D2, D3, D4), the n-th one drawn
(DESIGN CHOICE, safe: notes/assumptions/1.md). -/
opaque Config.freeTurn : Nat → HostTurn

end Sys2Proof
end

