-- ==== Sys2Proof/Machine/State.lean ====
section
/-! DEFINITION. The state of the core (10_state.md; the table of R1204, 70_reset_and_hazards.md) as plain data, the reasons a step
can stop, and the state right after reset. -/

namespace Sys2Proof.Machine

/-- The general registers V0..VF (R100). -/
abbrev RegFile := Vector Byte 16

/-- The call stack's 16 entries (R115). -/
abbrev CallStack := Vector Word 16

/-- One row of the frame buffer: 64 pixels (R145). -/
abbrev PixelRow := Vector Bool 64

/-- The frame buffer `fb[y][x]`: 32 rows of 64 pixels, row-major (R145). -/
abbrev FrameBuffer := Vector PixelRow 32

/-- Memory as the list of (address, byte) pairs that differ from what an unlisted address reads as, addresses strictly
rising (R200; DESIGN CHOICE, safe: notes/assumptions/14.md). -/
abbrev Memory := List Host.Cell

/-- What an error reports: its kind with the info it records (the table of R1100, 60_exceptions.md). -/
inductive ErrorCause where
  /-- Code 1: a word of family 0x0, 0xE or 0xF that matches no row. -/
  | unknownOpcode (word : Word)
  /-- Code 2: 0x8xyN with N outside the nine sub-operations. -/
  | unknownSubcode (family op : Nibble)
  /-- Code 3: never raised (R307). -/
  | invalidRegister (word : Word) (nibble : Nibble)
  /-- Code 4: CALL with SP = 16 (R502). -/
  | stackOverflow
  /-- Code 5: RET with SP = 0 (R500). -/
  | stackUnderflow
  /-- Code 6: SKP or SKNP with V[x] > 0xF (R610, R611). -/
  | invalidKey (value : Byte)
  /-- Code 7: a fetch with pc_instr > 0xFFE (R204). -/
  | fetchOutOfBounds (address : Word)
  /-- Code 8: a data access above 0xFFF; the info is the first address out of range (R206, R207). -/
  | memoryOutOfBounds (address : Nat)
  deriving DecidableEq, Repr

/-- The record an error leaves: its cause and `pc_instr`, the address the failing word was fetched from (R146, R1103). -/
structure ErrorRecord where
  cause : ErrorCause
  pcInstr : Word
  deriving DecidableEq, Repr

/-- The `result` of a step (R155). -/
inductive StepResult where
  | ok (i : Instr)
  | err (e : ErrorRecord)
  deriving DecidableEq, Repr

/-- What one step samples at its start and holds until its end: `pc_instr` (R404) and the inputs that the execute phase
reads (R409). Idle between steps: "It is not state that outlives the step" (DESIGN CHOICE, safe: notes/assumptions/7.md). -/
structure Latch where
  pcInstr : Word
  keyEvent : Option Nibble
  randByte : Byte
  deriving DecidableEq, Repr

/-- The latch between steps. -/
def Latch.idle : Latch := ⟨0#16, none, 0#8⟩

/-- The state of the core. -/
structure State where
  /-- V0..VF (R100). -/
  v : RegFile
  /-- The program counter (R103). -/
  pc : Word
  /-- The index register I (R110). -/
  idx : Addr
  /-- `stack[0..15]` (R115). -/
  stack : CallStack
  /-- SP, a value 0..16 (R115; DESIGN CHOICE, safe: notes/assumptions/12.md). -/
  sp : Fin 17
  /-- The delay timer DT (R120). -/
  dt : Byte
  /-- The sound timer ST (R120). -/
  st : Byte
  /-- The frame buffer (R145). -/
  fb : FrameBuffer
  /-- The key flags: `keys[k]` is true when key k is down (R140). -/
  keys : Vector Bool 16
  /-- The halted flag (R125). -/
  halted : Bool
  /-- The quirk configuration (R130). -/
  quirks : Quirks
  /-- The fault latch (R146). -/
  fault : Option ErrorRecord
  /-- The last step's result; none before the first step (R155, R1204). -/
  result : Option StepResult
  /-- The 4096-byte memory (R200). -/
  mem : Memory
  /-- What the running step has sampled; idle between steps (R404, R409). -/
  latch : Latch
  /-- The model's own: the host's coming turns, the next first (R160; notes/assumptions/1.md). -/
  script : List HostTurn
  /-- The model's own: how many turns have been drawn as free values (notes/assumptions/1.md). -/
  drawn : Nat
  deriving DecidableEq, Repr

/-- Why the machine stops. -/
inductive Fault where
  /-- Raised by step alone, when it is asked to run a core whose fault latch is set: "no step is enabled" after an error (R401,
  R1110). Safe: the spec gives no step there. -/
  | coreFaulted (e : ErrorRecord)
  deriving DecidableEq, Repr

/-- Why there is no answer. -/
inductive Refusal where
  /-- Raised by exec's arm of an instruction without a meaning; no arm of this model is one. Safe. -/
  | notModelled (mnemonic : String)
  /-- Raised by construction alone, for a program image longer than 0xC00 bytes: "no core is constructed" (R1201). Safe. -/
  | programTooLong (length : Nat)
  deriving DecidableEq, Repr

/-- The core right after reset (R1204), constructed with the default FONT and no program: memory lists nothing, since an
unlisted address reads as the reset contents (notes/assumptions/4.md, notes/assumptions/5.md). The quirks are the free
constant of Config (notes/assumptions/3.md); script and drawn are the model's own (DESIGN CHOICE:
notes/assumptions/2.md). -/
def State.reset : State where
  v := Vector.replicate 16 0#8
  pc := 0x200#16
  idx := 0#12
  stack := Vector.replicate 16 0#16
  sp := 0
  dt := 0#8
  st := 0#8
  fb := Vector.replicate 32 (Vector.replicate 64 false)
  keys := Vector.replicate 16 false
  halted := false
  quirks := Config.quirks
  fault := none
  result := none
  mem := []
  latch := Latch.idle
  script := []
  drawn := 0

end Sys2Proof.Machine
end

