-- ==== Sys2Proof/Machine/Font.lean ====
section
/-! DEFINITION. The default FONT (R1202, 70_reset_and_hazards.md) and what an address that memory does not list reads as: the reset
contents (R1203). FONT is a parameter of construction (R8, D16): State.construct takes any; these are the bytes of the
default (PRESUMED, the spec's own default from general knowledge; unsafe: notes/assumptions/4.md). -/

namespace Sys2Proof.Machine

/-- Glyphs 0 to 7, five bytes each (R1202). -/
def fontLow : List Byte :=
  [ 0xF0#8, 0x90#8, 0x90#8, 0x90#8, 0xF0#8,
    0x20#8, 0x60#8, 0x20#8, 0x20#8, 0x70#8,
    0xF0#8, 0x10#8, 0xF0#8, 0x80#8, 0xF0#8,
    0xF0#8, 0x10#8, 0xF0#8, 0x10#8, 0xF0#8,
    0x90#8, 0x90#8, 0xF0#8, 0x10#8, 0x10#8,
    0xF0#8, 0x80#8, 0xF0#8, 0x10#8, 0xF0#8,
    0xF0#8, 0x80#8, 0xF0#8, 0x90#8, 0xF0#8,
    0xF0#8, 0x10#8, 0x20#8, 0x40#8, 0x40#8 ]

/-- Glyphs 8 to F, five bytes each (R1202). -/
def fontHigh : List Byte :=
  [ 0xF0#8, 0x90#8, 0xF0#8, 0x90#8, 0xF0#8,
    0xF0#8, 0x90#8, 0xF0#8, 0x10#8, 0xF0#8,
    0xF0#8, 0x90#8, 0xF0#8, 0x90#8, 0x90#8,
    0xE0#8, 0x90#8, 0xE0#8, 0x90#8, 0xE0#8,
    0xF0#8, 0x80#8, 0x80#8, 0x80#8, 0xF0#8,
    0xE0#8, 0x90#8, 0x90#8, 0x90#8, 0xE0#8,
    0xF0#8, 0x80#8, 0xF0#8, 0x80#8, 0xF0#8,
    0xF0#8, 0x80#8, 0xF0#8, 0x80#8, 0x80#8 ]

/-- The default FONT: 16 glyphs of 5 bytes, glyph d at 5*d (R1202). -/
def fontDefault : List Byte := fontLow ++ fontHigh

/-- The byte at an address that memory does not list: the default FONT below 0x050, zero elsewhere (R1203). -/
def unlistedByte (a : Nat) : Byte := if a < 0x50 then fontDefault.getD a 0#8 else 0#8

end Sys2Proof.Machine
end

