-- ==== Sys2Proof/Machine/Ops.lean ====
section
/-! DEFINITION. The named operations every meaning is built from: one byte of memory (R206, R207), runs of bytes at consecutive
addresses, general registers (R15, R100), the index register (R13, R110), the program counter (R104), the call stack
(R115, R116), pixels of the frame buffer (R145), and raising an error (R1110). -/

namespace Sys2Proof.Machine

/-- What an instruction's execute phase answers. -/
abbrev StepOutcome := Host.Outcome State Fault Refusal

/-! ### Raising an error (R1110) -/

/-- The record of an error raised in this step: its cause and the address the failing word was fetched from (R1103). -/
def State.errorRecord (s : State) (c : ErrorCause) : ErrorRecord := ⟨c, s.latch.pcInstr⟩

/-- `raise E(info)`: the fault latch and the result record the error, and the step ends. Everything else stays, so the tick
and the advance of this step persist (R1102, R1110, R1111; DEDUCED, safe: notes/assumptions/6.md). -/
def raise (c : ErrorCause) (s : State) : StepOutcome :=
  .next { s with fault := some (s.errorRecord c), result := some (.err (s.errorRecord c)) }

/-- Carry on with a checked value, or raise the error its check found (R1102: the check comes before any write). -/
def orRaise {α : Type} (r : Except ErrorCause α) (s : State) (k : α → State) : StepOutcome :=
  match r with
  | .ok a => .next (k a)
  | .error c => raise c s

/-! ### Memory -/

/-- The byte at address a: what is listed, else the reset contents. -/
def Memory.read : Memory → Nat → Byte
  | [], a => unlistedByte a
  | (k, b) :: m, a => if k = a then b else Memory.read m a

/-- Memory with byte b at address a, in canonical form: a byte equal to what an unlisted address reads as is not listed. -/
def Memory.write : Memory → Nat → Byte → Memory
  | [], a, b => if b = unlistedByte a then [] else [(a, b)]
  | (k, c) :: m, a, b =>
    if k < a then (k, c) :: Memory.write m a b
    else if k = a then (if b = unlistedByte a then m else (a, b) :: m)
    else (if b = unlistedByte a then (k, c) :: m else (a, b) :: (k, c) :: m)

/-- Addresses strictly rising from lo, all inside the 4096 bytes, and no entry equal to what an unlisted address reads as. -/
def Memory.wfFrom : Nat → Memory → Bool
  | _, [] => true
  | lo, (k, b) :: m => decide (lo ≤ k) && decide (k < 0x1000) && (b != unlistedByte k) && Memory.wfFrom (k + 1) m

/-- The canonical form of memory. -/
def Memory.wf (m : Memory) : Bool := Memory.wfFrom 0 m

/-- The address every data access out of range reports: the first address beyond memory (R206, R1100). -/
def firstBeyondMemory : Nat := 0x1000

/-- `MemRead(a, 1)` (R206), a an unbounded address (R208). -/
def memRead (m : Memory) (a : Nat) : Except ErrorCause Byte :=
  if 0xFFF < a then .error (.memoryOutOfBounds firstBeyondMemory) else .ok (m.read a)

/-- `MemWrite(a, 1, b)` (R207), a an unbounded address (R208). -/
def memWrite (m : Memory) (a : Nat) (b : Byte) : Except ErrorCause Memory :=
  if 0xFFF < a then .error (.memoryOutOfBounds firstBeyondMemory) else .ok (m.write a b)

/-- Whether some of the n addresses from base on lies beyond memory: the check an instruction makes before its first access
(R206; R803 to R805, R910). No address is checked for n = 0. -/
def rangeLeavesMemory (base n : Nat) : Bool := decide (0 < n) && decide (0xFFF < base + n - 1)

/-- `MemRead` of n consecutive addresses, in rising order (R209). -/
def readEach (m : Memory) : Nat → Nat → Except ErrorCause (List Byte)
  | _, 0 => .ok []
  | a, n + 1 =>
    match memRead m a with
    | .error c => .error c
    | .ok b =>
      match readEach m (a + 1) n with
      | .error c => .error c
      | .ok bs => .ok (b :: bs)

/-- `MemWrite` of bytes at consecutive addresses, in rising order (R209). -/
def writeEach : Memory → Nat → List Byte → Except ErrorCause Memory
  | m, _, [] => .ok m
  | m, a, b :: bs =>
    match memWrite m a b with
    | .error c => .error c
    | .ok m' => writeEach m' (a + 1) bs

/-- n bytes from base on, the whole range checked before the first access (R206). -/
def loadBytes (m : Memory) (base n : Nat) : Except ErrorCause (List Byte) :=
  if rangeLeavesMemory base n then .error (.memoryOutOfBounds firstBeyondMemory) else readEach m base n

/-- Bytes stored from base on, the whole range checked before the first access (R206). -/
def storeBytes (m : Memory) (base : Nat) (bs : List Byte) : Except ErrorCause Memory :=
  if rangeLeavesMemory base bs.length then .error (.memoryOutOfBounds firstBeyondMemory) else writeEach m base bs

/-- Bytes placed from base on with no check: what the loader does at construction (R1203), before the core runs. -/
def Memory.place : Memory → Nat → List Byte → Memory
  | m, _, [] => m
  | m, a, b :: bs => Memory.place (m.write a b) (a + 1) bs

/-! ### Registers -/

/-- `V[k]` (R15, R100). -/
def State.reg (s : State) (k : Reg) : Byte := s.v[k.toNat]'k.isLt

/-- `V[k] <- b` (R15, R100). -/
def State.setReg (s : State) (k : Reg) (b : Byte) : State := { s with v := s.v.set k.toNat b k.isLt }

/-- `I <- n`, which stores n mod 0x1000 (R13, R110). -/
def State.setIdx (s : State) (n : Nat) : State := { s with idx := BitVec.ofNat 12 n }

/-- `pc <- t`; every write is modulo 0x10000, which is what 16 bits hold (R104). -/
def State.setPc (s : State) (t : Word) : State := { s with pc := t }

/-! ### The call stack (R115, R116) -/

/-- Push a return address; nothing at capacity. -/
def State.push (s : State) (w : Word) : Except ErrorCause State :=
  if h : s.sp.val < 16 then
    .ok { s with stack := s.stack.set s.sp.val w h, sp := ⟨s.sp.val + 1, by omega⟩ }
  else .error .stackOverflow

/-- Pop a return address into pc; the entry itself is not cleared (R500). -/
def State.popToPc (s : State) : Except ErrorCause State :=
  if h : 0 < s.sp.val then
    .ok { s with sp := ⟨s.sp.val - 1, by omega⟩, pc := s.stack[s.sp.val - 1]'(by omega) }
  else .error .stackUnderflow

/-! ### The frame buffer (R145) -/

/-- `fb[y][x]`; outside the 64 columns and 32 rows there is no pixel. -/
def FrameBuffer.pixel (fb : FrameBuffer) (x y : Nat) : Bool :=
  if h : x < 64 ∧ y < 32 then (fb[y]'h.2)[x]'h.1 else false

/-- `fb[y][x] <- not fb[y][x]`; outside the frame nothing changes. -/
def FrameBuffer.toggle (fb : FrameBuffer) (x y : Nat) : FrameBuffer :=
  if h : x < 64 ∧ y < 32 then fb.set y ((fb[y]'h.2).set x (!(fb[y]'h.2)[x]'h.1) h.1) h.2 else fb

/-- The frame buffer with every pixel false (R900). -/
def FrameBuffer.blank : FrameBuffer := Vector.replicate 32 (Vector.replicate 64 false)

end Sys2Proof.Machine
end

