-- ==== Sys2Proof/Machine/Operands.lean ====
section
/-! DEFINITION. The operand forms: address operands (R303), the one addressing mode I + k (R208, R806), register blocks (R804, R805),
key numbers (R610), the shift source (R730, R731), and decimal digits (R803). -/

namespace Sys2Proof.Machine

/-- `zext_16(nnn)`: an address operand as a jump target, used as is (R303). -/
def jumpTarget (nnn : Addr) : Word := nnn.setWidth 16

/-- `zext_16(V[0]) + zext_16(nnn)`: a 16-bit add, not masked to 12 bits (R503). -/
def State.indexedTarget (s : State) (nnn : Addr) : Word := (s.reg 0x0#4).setWidth 16 + nnn.setWidth 16

/-- n bytes at I, I+1, ... (R208). -/
def State.loadAtI (s : State) (n : Nat) : Except ErrorCause (List Byte) := loadBytes s.mem s.idx.toNat n

/-- Bytes stored at I, I+1, ... (R208). -/
def State.storeAtI (s : State) (bs : List Byte) : Except ErrorCause Memory := storeBytes s.mem s.idx.toNat bs

/-- How many registers V0..=Vx holds: x+1 (R804, R805). -/
def blockLength (x : Reg) : Nat := x.toNat + 1

/-- V0..=Vx, lowest first (R804). -/
def State.regBlock (s : State) (x : Reg) : List Byte := s.v.toList.take (blockLength x)

/-- V0, V1, ... replaced by the bytes of a list, lowest first; the registers beyond it stay (R805). -/
def State.setRegBlock (s : State) (bs : List Byte) : State :=
  { s with v := Vector.ofFn fun k => (bs[k.val]?).getD (s.v[k.val]) }

/-- The post-increment of I by x+1 under the `memory` quirk (R804, R805). -/
def State.advanceIdx (s : State) (x : Reg) : State :=
  s.setIdx (if s.quirks.memory then s.idx.toNat + blockLength x else s.idx.toNat)

/-- The key flag numbered by a register's value; a value above 0xF is no key (R610, R611). -/
def State.keyNumbered (s : State) (k : Byte) : Except ErrorCause Bool :=
  if h : k.toNat < 16 then .ok (s.keys[k.toNat]'h) else .error (.invalidKey k)

/-- The source of a shift: Vx with the `shifting` quirk, else Vy (R730, R731). -/
def State.shiftSource (s : State) (x y : Reg) : Byte := if s.quirks.shifting then s.reg x else s.reg y

/-- The hundreds, tens and ones digits of a byte (R803). -/
def decimalDigits (b : Byte) : List Byte :=
  [BitVec.ofNat 8 (b.toNat / 100), BitVec.ofNat 8 (b.toNat / 10 % 10), BitVec.ofNat 8 (b.toNat % 10)]

end Sys2Proof.Machine
end

