-- ==== Sys2Proof/Machine/Flags.lean ====
section
/-! DEFINITION. Every value an instruction writes to VF as a flag (R101), computed exactly (R704), and the two ways it is written: after
the result, so that the flag wins when the destination is VF (R703). -/

namespace Sys2Proof.Machine

/-- The carry of an 8-bit addition: a + b > 255 (R720). -/
def carryFlag (a b : Byte) : Byte := flagByte (decide (255 < a.toNat + b.toNat))

/-- No borrow in a - b: a >= b (R721, R722). -/
def noBorrowFlag (a b : Byte) : Byte := flagByte (decide (b.toNat ≤ a.toNat))

/-- The bit a right shift by one shifts out: the least significant (R730). -/
def shiftedOutRight (a : Byte) : Byte := a &&& 1#8

/-- The bit a left shift by one shifts out: the most significant (R731). -/
def shiftedOutLeft (a : Byte) : Byte := (a >>> 7) &&& 1#8

/-- The collision flag of DRW: 1 when a pixel was erased, else 0 (R912). -/
def collisionFlag (erased : Bool) : Byte := flagByte erased

/-- `V[x] <- result`, then `V[0xF] <- flag` (R702, R703; PRESUMED with D24, unsafe: notes/assumptions/11.md). -/
def State.setRegWithFlag (s : State) (x : Reg) (result flag : Byte) : State := (s.setReg x result).setReg Reg.vf flag

/-- `V[x] <- result`, then `V[0xF] <- 0` if the `vf_reset` quirk is set (R711). -/
def State.setRegLogic (s : State) (x : Reg) (result : Byte) : State :=
  { s with v := if s.quirks.vfReset then (s.setRegWithFlag x result 0#8).v else (s.setReg x result).v }

end Sys2Proof.Machine
end

