-- ==== Sys2Proof/Machine/Cycle.lean ====
section
/-! DEFINITION. The parts of one step around the execute phase (40_step_engine.md R400): the host's turn, the tick, sampling, the fetch,
the advance, and the end of the step. -/

namespace Sys2Proof.Machine

/-! ### The host's turn (R160; notes/assumptions/1.md, notes/assumptions/8.md) -/

/-- The turn of this step: the next one scheduled, else a free value. -/
def State.nextTurn (s : State) : HostTurn :=
  match s.script with
  | [] => Config.freeTurn s.drawn
  | t :: _ => t

/-- The state once this step's turn has been taken. -/
def State.turnTaken (s : State) : State :=
  match s.script with
  | [] => { s with drawn := s.drawn + 1 }
  | _ :: rest => { s with script := rest }

/-- The host sets or clears key flags, in the order given (R140, R160). -/
def writeKeys : Vector Bool 16 → List (Nibble × Bool) → Vector Bool 16
  | keys, [] => keys
  | keys, (k, b) :: ws => writeKeys (keys.set k.toNat b k.isLt) ws

/-- What the host writes before it strobes: key flags and `halted`, and nothing else (R160). -/
def State.hostWrites (s : State) (t : HostTurn) : State :=
  { s with keys := writeKeys s.keys t.keyWrites, halted := t.haltedWrite.getD s.halted }

/-! ### Phase (a): the tick (R402) -/

/-- A timer after one tick: down by one, floor at zero. -/
def tickTimer (b : Byte) : Byte := if 0 < b.toNat then b - 1#8 else b

/-- Phase (a): both timers tick if `tick_due`. -/
def State.tick (s : State) (due : Bool) : State :=
  { s with dt := if due then tickTimer s.dt else s.dt, st := if due then tickTimer s.st else s.st }

/-! ### Phases (b) and (d): sampling, fetch, advance (R403, R404, R405) -/

/-- The inputs sampled once per step, and `pc_instr`, the value of pc at the start of phase (b) (R404, R409). -/
def State.sample (s : State) (t : HostTurn) : State := { s with latch := ⟨s.pc, t.keyEvent, t.randByte⟩ }

/-- Whether both bytes of a fetch at this pc lie in memory (R204). -/
def State.canFetch (s : State) : Bool := decide (s.pc.toNat ≤ 0xFFE)

/-- The word at pc, big-endian (R202, R403). -/
def State.fetchWord (s : State) : Word := composeWord (s.mem.read s.pc.toNat) (s.mem.read (s.pc.toNat + 1))

/-- Phase (d): right after a successful fetch, before decode (R405). -/
def State.advance (s : State) : State := s.setPc (s.pc + 2#16)

/-! ### Decode errors as raised by the step (R306, R1100) -/

/-- The error a decode error raises. -/
def decodeCause : DecodeError → ErrorCause
  | .unknownOpcode w => .unknownOpcode w
  | .unknownSubcode f op => .unknownSubcode f op
  | .invalidRegister w n => .invalidRegister w n

/-! ### The end of a step (R408, R1110) -/

/-- The latch does not outlive the step (R404, R409). -/
def State.release (s : State) : State := { s with latch := Latch.idle }

/-- A step whose execute phase raised nothing ends with `result <- Ok(d)` (R400, R408). -/
def State.commit (d : Instr) (s : State) : State :=
  { s with result := match s.fault with
      | none => some (.ok d)
      | some _ => s.result }

/-- An operation on the state an outcome holds, if it holds one. -/
def mapNext (f : State → State) : StepOutcome → StepOutcome
  | .next s => .next (f s)
  | .fault r => .fault r
  | .refused r => .refused r

/-! ### Placing a word where the next fetch reads it -/

/-- A word stored at pc, high byte first; unchanged where no fetch is possible (notes/assumptions/17.md). -/
def State.placeWord (s : State) (w : Word) : State :=
  if s.canFetch then { s with mem := s.mem.place s.pc.toNat (wordBytes w) } else s

end Sys2Proof.Machine
end

