-- ==== Sys2Proof/Machine/Alu.lean ====
section
/-! DEFINITION. Register file and ALU: LDL, ADDL, LD, OR, AND, XOR, ADDC, SUBC, SUBN, SHRC, SHLC, RND (43_alu.md). Every operand is read
from the state before the instruction (R702). -/

namespace Sys2Proof.Machine

/-- LDL (R700). -/
def execLdl (x : Reg) (kk : Byte) (s : State) : StepOutcome := .next (s.setReg x kk)

/-- ADDL (R701): the sum mod 256, no flag. -/
def execAddl (x : Reg) (kk : Byte) (s : State) : StepOutcome := .next (s.setReg x (s.reg x + kk))

/-- LD (R710). -/
def execLd (x y : Reg) (s : State) : StepOutcome := .next (s.setReg x (s.reg y))

/-- OR (R712). -/
def execOr (x y : Reg) (s : State) : StepOutcome := .next (s.setRegLogic x (s.reg x ||| s.reg y))

/-- AND (R713). -/
def execAnd (x y : Reg) (s : State) : StepOutcome := .next (s.setRegLogic x (s.reg x &&& s.reg y))

/-- XOR (R714). -/
def execXor (x y : Reg) (s : State) : StepOutcome := .next (s.setRegLogic x (s.reg x ^^^ s.reg y))

/-- ADDC (R720): Vx + Vy mod 256, VF the carry. -/
def execAddc (x y : Reg) (s : State) : StepOutcome :=
  .next (s.setRegWithFlag x (s.reg x + s.reg y) (carryFlag (s.reg x) (s.reg y)))

/-- SUBC (R721): Vx - Vy mod 256, VF = 1 on no borrow. -/
def execSubc (x y : Reg) (s : State) : StepOutcome :=
  .next (s.setRegWithFlag x (s.reg x - s.reg y) (noBorrowFlag (s.reg x) (s.reg y)))

/-- SUBN (R722): Vy - Vx mod 256 into Vx, VF = 1 on no borrow. -/
def execSubn (x y : Reg) (s : State) : StepOutcome :=
  .next (s.setRegWithFlag x (s.reg y - s.reg x) (noBorrowFlag (s.reg y) (s.reg x)))

/-- SHRC (R730): the source shifted right by one, VF its bit 0. -/
def execShrc (x y : Reg) (s : State) : StepOutcome :=
  .next (s.setRegWithFlag x (s.shiftSource x y >>> 1) (shiftedOutRight (s.shiftSource x y)))

/-- SHLC (R731): the source shifted left by one mod 256, VF its bit 7. -/
def execShlc (x y : Reg) (s : State) : StepOutcome :=
  .next (s.setRegWithFlag x (s.shiftSource x y <<< 1) (shiftedOutLeft (s.shiftSource x y)))

/-- RND (R740): the step's random byte under the mask. -/
def execRnd (x : Reg) (kk : Byte) (s : State) : StepOutcome := .next (s.setReg x (s.latch.randByte &&& kk))

end Sys2Proof.Machine
end

