-- ==== Sys2Proof/Machine/Control.lean ====
section
/-! DEFINITION. Control transfer: RET, JP, CALL, JPL (41_control_transfer.md). Each is the execute phase: pc already holds pc_instr + 2. -/

namespace Sys2Proof.Machine

/-- RET (R500): SP = 0 raises StackUnderflow; else the top entry goes to pc. -/
def execRet (s : State) : StepOutcome := orRaise s.popToPc s id

/-- JP (R501): a target equal to the instruction's own address sets `halted`; the jump is taken in any case. -/
def execJp (nnn : Addr) (s : State) : StepOutcome :=
  .next ({ s with halted := s.halted || decide (jumpTarget nnn = s.latch.pcInstr) }.setPc (jumpTarget nnn))

/-- CALL (R502): SP = 16 raises StackOverflow; else pc, the address after the CALL, is pushed and the jump taken. -/
def execCall (nnn : Addr) (s : State) : StepOutcome := orRaise (s.push s.pc) s fun t => t.setPc (jumpTarget nnn)

/-- JPL (R503): pc <- V0 + nnn; `halted` is never set. -/
def execJpl (nnn : Addr) (s : State) : StepOutcome := .next (s.setPc (s.indexedTarget nnn))

end Sys2Proof.Machine
end

