-- ==== Sys2Proof/Machine/Display.lean ====
section
/-! DEFINITION. Frame buffer: CLS, DRW (45_display.md). -/

namespace Sys2Proof.Machine

/-- CLS (R900): every pixel false. -/
def execCls (s : State) : StepOutcome := .next { s with fb := FrameBuffer.blank }

/-- What the drawing loop carries: the frame buffer, and whether a pixel has been erased. -/
structure Blit where
  fb : FrameBuffer
  erased : Bool
  deriving DecidableEq, Repr

/-- One set bit of the sprite at column px, row py: clipped outside the frame, never wrapped (R910, R911). -/
def Blit.plot (a : Blit) (px py : Nat) : Blit :=
  if px < 64 ∧ py < 32 then ⟨a.fb.toggle px py, a.erased || a.fb.pixel px py⟩ else a

/-- One sprite byte at row py from column x0 on, most significant bit first (R910, R913). -/
def Blit.row (a : Blit) (x0 py : Nat) (b : Byte) : Blit :=
  (List.range 8).foldl (fun a c => if b.getLsbD (7 - c) then a.plot (x0 + c) py else a) a

/-- The sprite bytes from row py on, one row per byte (R910). -/
def Blit.rows (x0 : Nat) : Nat → List Byte → Blit → Blit
  | _, [], a => a
  | py, b :: bs, a => Blit.rows x0 (py + 1) bs (a.row x0 py b)

/-- The start column: V[x] mod 64 (R911). -/
def State.startColumn (s : State) (x : Reg) : Nat := (s.reg x).toNat % 64

/-- The start row: V[y] mod 32 (R911). -/
def State.startRow (s : State) (y : Reg) : Nat := (s.reg y).toNat % 32

/-- The sprite drawn from the start position read before VF is written (R702, R910); VF is the collision flag (R912). -/
def State.drawSprite (s : State) (x y : Reg) (sprite : List Byte) : State :=
  let a := Blit.rows (s.startColumn x) (s.startRow y) sprite ⟨s.fb, false⟩
  { s with fb := a.fb }.setReg Reg.vf (collisionFlag a.erased)

/-- DRW (R910): n sprite rows from I; all n addresses are checked before any pixel changes. -/
def execDrw (x y : Reg) (n : Nibble) (s : State) : StepOutcome :=
  orRaise (s.loadAtI n.toNat) s fun sprite => s.drawSprite x y sprite

end Sys2Proof.Machine
end

