-- ==== Sys2Proof/Machine/IndexMemory.lean ====
section
/-! DEFINITION. Index register and memory: LDI, ADDI, LDSPR, LDBCD, PUSHREG, POPREG (44_index_memory.md). -/

namespace Sys2Proof.Machine

/-- LDI (R800). -/
def execLdi (nnn : Addr) (s : State) : StepOutcome := .next (s.setIdx nnn.toNat)

/-- ADDI (R801): I + Vx mod 0x1000; VF is not written. -/
def execAddi (x : Reg) (s : State) : StepOutcome := .next (s.setIdx (s.idx.toNat + (s.reg x).toNat))

/-- LDSPR (R802): Vx * 5 mod 0x1000, with the whole value of Vx (D38; PRESUMED, unsafe:
notes/assumptions/11.md). -/
def execLdspr (x : Reg) (s : State) : StepOutcome := .next (s.setIdx ((s.reg x).toNat * 5))

/-- LDBCD (R803): the three decimal digits of Vx at I, I+1, I+2. -/
def execLdbcd (x : Reg) (s : State) : StepOutcome :=
  orRaise (s.storeAtI (decimalDigits (s.reg x))) s fun m => { s with mem := m }

/-- PUSHREG (R804): V0..=Vx stored at I; then I advances under the `memory` quirk. -/
def execPushreg (x : Reg) (s : State) : StepOutcome :=
  orRaise (s.storeAtI (s.regBlock x)) s fun m => { s with mem := m }.advanceIdx x

/-- POPREG (R805): V0..=Vx loaded from I; then I advances under the `memory` quirk. -/
def execPopreg (x : Reg) (s : State) : StepOutcome :=
  orRaise (s.loadAtI (blockLength x)) s fun bs => (s.setRegBlock bs).advanceIdx x

end Sys2Proof.Machine
end

