-- ==== Sys2Proof/Machine/Skips.lean ====
section
/-! DEFINITION. Conditional skips: SEQ, SNELIT, SE, SNE, SKP, SKNP (42_skips.md). -/

namespace Sys2Proof.Machine

/-- A taken skip adds 2 more to pc (R105). -/
def State.skipIf (s : State) (c : Bool) : State := s.setPc (if c then s.pc + 2#16 else s.pc)

/-- SEQ (R600): skip if Vx equals the literal. -/
def execSeq (x : Reg) (kk : Byte) (s : State) : StepOutcome := .next (s.skipIf (s.reg x == kk))

/-- SNELIT (R601): skip if Vx differs from the literal. -/
def execSnelit (x : Reg) (kk : Byte) (s : State) : StepOutcome := .next (s.skipIf (s.reg x != kk))

/-- SE (R602): skip if the two registers are equal. -/
def execSe (x y : Reg) (s : State) : StepOutcome := .next (s.skipIf (s.reg x == s.reg y))

/-- SNE (R603): skip if the two registers differ. -/
def execSne (x y : Reg) (s : State) : StepOutcome := .next (s.skipIf (s.reg x != s.reg y))

/-- SKP (R610): skip if the key numbered by Vx is down; InvalidKey above 0xF. -/
def execSkp (x : Reg) (s : State) : StepOutcome := orRaise (s.keyNumbered (s.reg x)) s fun down => s.skipIf down

/-- SKNP (R611): skip if the key numbered by Vx is up; InvalidKey above 0xF. -/
def execSknp (x : Reg) (s : State) : StepOutcome := orRaise (s.keyNumbered (s.reg x)) s fun down => s.skipIf !down

end Sys2Proof.Machine
end

