-- ==== Sys2Proof/Machine/Timers.lean ====
section
/-! DEFINITION. Timers and key wait: MOVDT, LDDT, LDST, LDKB (46_timers_keyboard.md). The tick of the step has already happened. -/

namespace Sys2Proof.Machine

/-- MOVDT (R1000): Vx <- DT, the post-tick value. -/
def execMovdt (x : Reg) (s : State) : StepOutcome := .next (s.setReg x s.dt)

/-- LDDT (R1001). -/
def execLddt (x : Reg) (s : State) : StepOutcome := .next { s with dt := s.reg x }

/-- LDST (R1002). -/
def execLdst (x : Reg) (s : State) : StepOutcome := .next { s with st := s.reg x }

/-- LDKB (R1030): with no key event pc goes back by 2, so the same LDKB is fetched next step; with one, Vx is its key id. -/
def execLdkb (x : Reg) (s : State) : StepOutcome :=
  .next { s with
    v := match s.latch.keyEvent with
      | none => s.v
      | some k => (s.setReg x (k.setWidth 8)).v
    pc := match s.latch.keyEvent with
      | none => s.pc - 2#16
      | some _ => s.pc }

end Sys2Proof.Machine
end

