-- ==== Sys2Proof/Machine/Dispatch.lean ====
section
/-! DEFINITION. The execute phase: one exhaustive match (R407, R313), one meaning per instruction. -/

namespace Sys2Proof.Machine

def exec (i : Instr) (s : State) : Host.Outcome State Fault Refusal :=
  match i with
  | .cls => Sys2Proof.Machine.execCls s
  | .ret => Sys2Proof.Machine.execRet s
  | .jp nnn => Sys2Proof.Machine.execJp nnn s
  | .call nnn => Sys2Proof.Machine.execCall nnn s
  | .seq x kk => Sys2Proof.Machine.execSeq x kk s
  | .snelit x kk => Sys2Proof.Machine.execSnelit x kk s
  | .se x y => Sys2Proof.Machine.execSe x y s
  | .ldl x kk => Sys2Proof.Machine.execLdl x kk s
  | .addl x kk => Sys2Proof.Machine.execAddl x kk s
  | .ld x y => Sys2Proof.Machine.execLd x y s
  | .or x y => Sys2Proof.Machine.execOr x y s
  | .and x y => Sys2Proof.Machine.execAnd x y s
  | .xor x y => Sys2Proof.Machine.execXor x y s
  | .addc x y => Sys2Proof.Machine.execAddc x y s
  | .subc x y => Sys2Proof.Machine.execSubc x y s
  | .shrc x y => Sys2Proof.Machine.execShrc x y s
  | .subn x y => Sys2Proof.Machine.execSubn x y s
  | .shlc x y => Sys2Proof.Machine.execShlc x y s
  | .sne x y => Sys2Proof.Machine.execSne x y s
  | .ldi nnn => Sys2Proof.Machine.execLdi nnn s
  | .jpl nnn => Sys2Proof.Machine.execJpl nnn s
  | .rnd x kk => Sys2Proof.Machine.execRnd x kk s
  | .drw x y n => Sys2Proof.Machine.execDrw x y n s
  | .skp x => Sys2Proof.Machine.execSkp x s
  | .sknp x => Sys2Proof.Machine.execSknp x s
  | .movdt x => Sys2Proof.Machine.execMovdt x s
  | .ldkb x => Sys2Proof.Machine.execLdkb x s
  | .lddt x => Sys2Proof.Machine.execLddt x s
  | .ldst x => Sys2Proof.Machine.execLdst x s
  | .addi x => Sys2Proof.Machine.execAddi x s
  | .ldspr x => Sys2Proof.Machine.execLdspr x s
  | .ldbcd x => Sys2Proof.Machine.execLdbcd x s
  | .pushreg x => Sys2Proof.Machine.execPushreg x s
  | .popreg x => Sys2Proof.Machine.execPopreg x s

end Sys2Proof.Machine
end

