-- ==== Sys2Proof/Machine/Engine.lean ====
section
/-! DEFINITION. One cycle of the core (R400, 40_step_engine.md). -/

namespace Sys2Proof.Machine

/-- Phases (d), (c), (e) of a step whose fetch is possible: advance, decode, execute (R400). -/
def runFetched (s : State) : StepOutcome :=
  match decode s.fetchWord with
  | .error e => raise (decodeCause e) s.advance
  | .ok d => mapNext (State.commit d) (exec d s.advance)

/-- The cycle with the inputs of one strobe, of a core that is not faulted (R400): tick, fetch, advance, decode, execute. -/
def cycle (t : HostTurn) (s : State) : StepOutcome :=
  let s1 := (s.tick t.tickDue).sample t
  mapNext State.release (if s1.canFetch then runFetched s1 else raise (.fetchOutOfBounds s1.pc) s1)

/-- The state in which the cycle of the next step starts: the host's turn taken, its writes made (R151, R160). -/
def State.atStrobe (s : State) : State := s.turnTaken.hostWrites s.nextTurn

end Sys2Proof.Machine
end

