-- ==== Sys2Proof/Machine/Step.lean ====
section
/-! DEFINITION. One step: one strobe of the host (R151), with what the host did before it. -/

namespace Sys2Proof.Machine

/-- The step. A core whose fault latch is set has none (R401). -/
def step (s : State) : Host.Outcome State Fault Refusal :=
  match s.fault with
  | some e => .fault (.coreFaulted e)
  | none => cycle s.nextTurn s.atStrobe

/-- The state with the word w, of nbits bits, where step fetches its next instruction. -/
def State.withFetchWord (s : State) (nbits w : Nat) : State := s.placeWord (tableWord nbits w)

end Sys2Proof.Machine
end

