-- ==== Sys2Proof/Machine/Boot.lean ====
section
/-! DEFINITION. Construction, the only reset (R1200 to R1204, 70_reset_and_hazards.md). -/

namespace Sys2Proof.Machine

/-- The memory image after construction: FONT at 0x000, the program at 0x200, zero elsewhere (R1203). -/
def bootImage (font : Vector Byte 80) (program : List Byte) : Memory :=
  (Memory.place [] 0x000 font.toList).place 0x200 program

/-- Construction from FONT, a program image and a quirks selection (R1200). A program that does not fit is refused: no
core is constructed (R1201). -/
def State.construct (font : Vector Byte 80) (program : List Byte) (quirks : Quirks) : Except Refusal State :=
  if programFits program then .ok { State.reset with quirks := quirks, mem := bootImage font program }
  else .error (.programTooLong program.length)

/-- The default FONT as the construction parameter (R1202). -/
def fontParameter : Vector Byte 80 := ⟨fontDefault.toArray, by decide⟩

end Sys2Proof.Machine
end

