-- ==== Sys2Proof/Machine/Ports.lean ====
section
/-! DEFINITION. The output ports, readable between steps (R150, 10_state.md). Reading changes nothing. -/

namespace Sys2Proof.Machine

/-- `fb_out`: the 2048 frame-buffer bits; the pixel at column x, row y has the linear index y*64 + x (R145, R150). -/
def State.fbOut (s : State) : List Bool := s.fb.toList.flatMap Vector.toList

/-- The `halted` output (R125, R150). -/
def State.haltedOut (s : State) : Bool := s.halted

/-- The `result` output (R150, R155). -/
def State.resultOut (s : State) : Option StepResult := s.result

/-- The code numbers of the errors (R1100). -/
def ErrorCause.code : ErrorCause → Nat
  | .unknownOpcode _ => 1
  | .unknownSubcode _ _ => 2
  | .invalidRegister _ _ => 3
  | .stackOverflow => 4
  | .stackUnderflow => 5
  | .invalidKey _ => 6
  | .fetchOutOfBounds _ => 7
  | .memoryOutOfBounds _ => 8

/-- The tiers of the errors (R1100). -/
inductive ErrorTier where
  | decode
  | runtime
  | fetch
  deriving DecidableEq, Repr

/-- The tier of an error (R1100). -/
def ErrorCause.tier : ErrorCause → ErrorTier
  | .unknownOpcode _ => .decode
  | .unknownSubcode _ _ => .decode
  | .invalidRegister _ _ => .decode
  | .stackOverflow => .runtime
  | .stackUnderflow => .runtime
  | .invalidKey _ => .runtime
  | .fetchOutOfBounds _ => .fetch
  | .memoryOutOfBounds _ => .runtime

end Sys2Proof.Machine
end

