-- ==== Sys2Proof/Safety.lean ====
section
/-! DEFINITION. The terms claims are stated in: how a run ends (R415), which errors can be latched (R1100), the invariant of the core,
and frames: what a meaning leaves unchanged. -/

namespace Sys2Proof.Machine

/-! ### How a run ends (R415, 40_step_engine.md) -/

/-- "A run has ended normally after a step that leaves `halted = true` and `fault = none`." -/
def State.endedNormally (s : State) : Bool := s.halted && s.fault.isNone

/-- "A run has ended in error when `fault ≠ none`"; never a normal end. -/
def State.endedInError (s : State) : Bool := s.fault.isSome

/-- The coming step runs JP to its own address, the halt idiom (R501). -/
def State.selfJumps (s : State) : Prop :=
  s.pc.toNat ≤ 0xFFE ∧ ∃ nnn : Addr, decode s.fetchWord = .ok (.jp nnn) ∧ nnn.toNat = s.pc.toNat

/-! ### The errors that can be latched (R1100) -/

/-- A record that the error table admits: the info of each kind is one that can raise it, at the address it was raised.
InvalidRegister is never raised (R307). -/
def ErrorRecord.admitted (e : ErrorRecord) : Prop :=
  match e.cause with
  | .unknownOpcode w => decode w = .error (.unknownOpcode w) ∧ e.pcInstr.toNat ≤ 0xFFE
  | .unknownSubcode f op => f = 0x8#4 ∧ (8 ≤ op.toNat ∧ op ≠ 0xE#4) ∧ e.pcInstr.toNat ≤ 0xFFE
  | .invalidRegister _ _ => False
  | .stackOverflow => e.pcInstr.toNat ≤ 0xFFE
  | .stackUnderflow => e.pcInstr.toNat ≤ 0xFFE
  | .invalidKey k => 0xF < k.toNat ∧ e.pcInstr.toNat ≤ 0xFFE
  | .fetchOutOfBounds a => a = e.pcInstr ∧ 0xFFE < a.toNat
  | .memoryOutOfBounds a => a = 0x1000 ∧ e.pcInstr.toNat ≤ 0xFFE

/-! ### The invariant -/

/-- What holds between any two steps. -/
structure State.Inv (s : State) : Prop where
  /-- Memory keeps its canonical form. -/
  memoryCanonical : s.mem.wf = true
  /-- No sampled input and no `pc_instr` outlives its step (R404, R409). -/
  latchIdle : s.latch = Latch.idle
  /-- "the largest `pc` is 0x10FE" (D8, R204). -/
  pcBounded : s.pc.toNat ≤ 0x10FE
  /-- Every stack entry is at most 0x1000 (R500). -/
  stackBounded : ∀ k : Fin 16, s.stack[k.val].toNat ≤ 0x1000
  /-- The fault latch and an Err result hold the same record (R1110). -/
  faultReported : ∀ e, s.fault = some e ↔ s.result = some (.err e)
  /-- Only an error of the table is latched (R1100). -/
  faultAdmitted : ∀ e, s.fault = some e → e.admitted

/-! ### Frames -/

/-- The parts of the state that a frame speaks of. -/
inductive Part where
  | regs | pc | idx | stack | dt | st | fb | keys | halted | quirks | fault | result | mem | latch | host
  deriving DecidableEq, Repr

/-- A part reads after as it read before. Memory is compared byte by byte through its read, registers and pixels through
theirs; `host` is the model's own script and draw counter. -/
def Unchanged (p : Part) (s t : State) : Prop :=
  match p with
  | .regs => ∀ k : Reg, t.reg k = s.reg k
  | .pc => t.pc = s.pc
  | .idx => t.idx = s.idx
  | .stack => t.stack = s.stack ∧ t.sp = s.sp
  | .dt => t.dt = s.dt
  | .st => t.st = s.st
  | .fb => ∀ x y : Nat, t.fb.pixel x y = s.fb.pixel x y
  | .keys => t.keys = s.keys
  | .halted => t.halted = s.halted
  | .quirks => t.quirks = s.quirks
  | .fault => t.fault = s.fault
  | .result => t.result = s.result
  | .mem => ∀ a : Nat, t.mem.read a = s.mem.read a
  | .latch => t.latch = s.latch
  | .host => t.script = s.script ∧ t.drawn = s.drawn

/-- Every part outside the list is unchanged. -/
def ChangesOnly (ps : List Part) (s t : State) : Prop := ∀ p : Part, p ∉ ps → Unchanged p s t

/-- Every general register outside the list is unchanged. -/
def RegsOutside (ks : List Reg) (s t : State) : Prop := ∀ k : Reg, k ∉ ks → t.reg k = s.reg k

/-- Every byte of memory outside the n bytes from base on is unchanged. -/
def MemOutside (base n : Nat) (s t : State) : Prop :=
  ∀ a : Nat, a < base ∨ base + n ≤ a → t.mem.read a = s.mem.read a

/-- An outcome that raises an error in state s: the fault latch and the result record it with `pc_instr`, and nothing else
changes (R1102, R1103, R1110). -/
def Raises (o : StepOutcome) (c : ErrorCause) (s : State) : Prop :=
  ∃ t, o = .next t ∧ t.fault = some ⟨c, s.latch.pcInstr⟩ ∧ t.result = some (.err ⟨c, s.latch.pcInstr⟩) ∧
    ChangesOnly [.fault, .result] s t

/-! ### Words -/

/-- Every word with the given fixed bits decodes to the instruction the function reads from it (R310). -/
def DecodesAs (pattern mask : Word) (f : Word → Instr) : Prop :=
  ∀ w : Word, w &&& mask = pattern → decode w = .ok (f w)

/-! ### Who writes what -/

/-- The mnemonics whose execute phase may change a part, from the rules that name its writers (R102, R105, R110, R115, R120,
R125, R130, R140, R145, R201, R1121). -/
def writersOf : Part → List String
  | .regs => ["LDL", "ADDL", "LD", "OR", "AND", "XOR", "ADDC", "SUBC", "SHRC", "SUBN", "SHLC", "RND", "DRW", "MOVDT",
      "LDKB", "POPREG"]
  | .pc => ["RET", "JP", "CALL", "SEQ", "SNELIT", "SE", "SNE", "JPL", "SKP", "SKNP", "LDKB"]
  | .idx => ["LDI", "ADDI", "LDSPR", "PUSHREG", "POPREG"]
  | .stack => ["RET", "CALL"]
  | .dt => ["LDDT"]
  | .st => ["LDST"]
  | .fb => ["CLS", "DRW"]
  | .keys => []
  | .halted => ["JP"]
  | .quirks => []
  | .fault => ["RET", "CALL", "SKP", "SKNP", "LDBCD", "PUSHREG", "POPREG", "DRW"]
  | .result => ["RET", "CALL", "SKP", "SKNP", "LDBCD", "PUSHREG", "POPREG", "DRW"]
  | .mem => ["LDBCD", "PUSHREG"]
  | .latch => []
  | .host => []

/-- Whether an instruction may write register k: the writes column of R102, with the side effects on VF of R101. -/
def writesReg (q : Quirks) (i : Instr) (k : Reg) : Bool :=
  match i with
  | .cls => false
  | .ret => false
  | .jp _ => false
  | .call _ => false
  | .seq _ _ => false
  | .snelit _ _ => false
  | .se _ _ => false
  | .ldl x _ => k == x
  | .addl x _ => k == x
  | .ld x _ => k == x
  | .or x _ => k == x || (q.vfReset && k == Reg.vf)
  | .and x _ => k == x || (q.vfReset && k == Reg.vf)
  | .xor x _ => k == x || (q.vfReset && k == Reg.vf)
  | .addc x _ => k == x || k == Reg.vf
  | .subc x _ => k == x || k == Reg.vf
  | .shrc x _ => k == x || k == Reg.vf
  | .subn x _ => k == x || k == Reg.vf
  | .shlc x _ => k == x || k == Reg.vf
  | .sne _ _ => false
  | .ldi _ => false
  | .jpl _ => false
  | .rnd x _ => k == x
  | .drw _ _ _ => k == Reg.vf
  | .skp _ => false
  | .sknp _ => false
  | .movdt x => k == x
  | .ldkb x => k == x
  | .lddt _ => false
  | .ldst _ => false
  | .addi _ => false
  | .ldspr _ => false
  | .ldbcd _ => false
  | .pushreg _ => false
  | .popreg x => decide (k.toNat ≤ x.toNat)

/-- The one runtime error an instruction can raise in a state, if any (R1121). -/
def runtimeErrorOf (i : Instr) (s : State) : Option ErrorCause :=
  match i with
  | .call _ => some .stackOverflow
  | .ret => some .stackUnderflow
  | .skp x => some (.invalidKey (s.reg x))
  | .sknp x => some (.invalidKey (s.reg x))
  | .ldbcd _ => some (.memoryOutOfBounds 0x1000)
  | .pushreg _ => some (.memoryOutOfBounds 0x1000)
  | .popreg _ => some (.memoryOutOfBounds 0x1000)
  | .drw _ _ _ => some (.memoryOutOfBounds 0x1000)
  | _ => none

/-! ### Sprites -/

/-- Whether the sprite of a DRW sets the pixel at column px, row py: the start wraps, rows and columns do not, bit 7 is the
leftmost (R910, R911, R913). -/
def State.spriteBit (s : State) (x y : Reg) (n : Nibble) (px py : Nat) : Bool :=
  let x0 := (s.reg x).toNat % 64
  let y0 := (s.reg y).toNat % 32
  decide (x0 ≤ px ∧ px < x0 + 8 ∧ y0 ≤ py ∧ py < y0 + n.toNat) &&
    (s.mem.read (s.idx.toNat + (py - y0))).getLsbD (7 - (px - x0))

/-- A visible pixel of the sprite lies on a set pixel of the frame buffer. -/
def State.spriteErases (s : State) (x y : Reg) (n : Nibble) : Prop :=
  ∃ px py : Nat, px < 64 ∧ py < 32 ∧ s.spriteBit x y n px py = true ∧ s.fb.pixel px py = true

end Sys2Proof.Machine
end

