-- ==== Sys2Proof/Certificates/Slice0/Obligations.lean ====
section
/-! DEFINITION. The statements for the provers. An instruction's statement gives its encoding (R310), the next state of its execute
phase for every state, and its frame. A stack, a key or an address out of range raises the error its rule names. -/

open Sys2Proof Sys2Proof.Machine

/-! ### Decoding -/

/-- Words of 95_test_vectors.md L1.2 and L2.7, decoded as listed there. -/
def Obligations.SpecWordsDecodeAsListed : Prop :=
  decode 0x00E0#16 = .ok .cls ∧ decode 0x00EE#16 = .ok .ret ∧ decode 0x1228#16 = .ok (.jp 0x228#12) ∧
  decode 0x6A02#16 = .ok (.ldl 0xA#4 0x02#8) ∧ decode 0x8123#16 = .ok (.xor 1#4 2#4) ∧
  decode 0x5AB7#16 = .ok (.se 0xA#4 0xB#4) ∧ decode 0x9AB3#16 = .ok (.sne 0xA#4 0xB#4) ∧
  decode 0xE0A1#16 = .ok (.sknp 0#4) ∧ decode 0xF133#16 = .ok (.ldbcd 1#4) ∧
  decode 0x0000#16 = .error (.unknownOpcode 0x0000#16) ∧ decode 0x0123#16 = .error (.unknownOpcode 0x0123#16) ∧
  decode 0x800F#16 = .error (.unknownSubcode 0x8#4 0xF#4) ∧ decode 0xE09F#16 = .error (.unknownOpcode 0xE09F#16) ∧
  decode 0xF000#16 = .error (.unknownOpcode 0xF000#16)

/-- Decode of encode is the identity, as a word and as the two bytes memory holds (R310, R313, R202). -/
def Obligations.DecodeOfEncodeIsIdentity : Prop :=
  ∀ i : Instr, decode (encode i) = .ok i ∧ decodeBytes (highByte (encode i)) (lowByte (encode i)) = .ok i

/-- Encode of decode gives the word back, but for the low nibble that SE and SNE do not examine (R308), which the encoder
writes as 0 (R314). -/
def Obligations.EncodeOfDecodeGivesWordBack : Prop :=
  ∀ (w : Word) (i : Instr), decode w = .ok i →
    encode i = if fieldH w = 0x5#4 ∨ fieldH w = 0x9#4 then w &&& 0xFFF0#16 else w

/-- Every word gives one instruction of the table or one decode error, of the kind and with the info R306 names;
InvalidRegister is never produced (R304, R306, R307, R309, R310). -/
def Obligations.EveryWordDecodesByTheTable : Prop :=
  ∀ w : Word,
    (∀ r ∈ opcodeTable, ∀ q ∈ opcodeTable, r.selects w = true → q.selects w = true → r = q) ∧
    (legalWord w = true → ∃ i r, decode w = .ok i ∧ r ∈ opcodeTable ∧ r.mnemonic = i.mnemonic ∧ r.selects w = true) ∧
    (legalWord w = false → decode w =
      .error (if fieldH w = 0x8#4 then .unknownSubcode 0x8#4 (fieldN w) else .unknownOpcode w)) ∧
    (fieldH w = 0x0#4 → w ≠ 0x00E0#16 → w ≠ 0x00EE#16 → decode w = .error (.unknownOpcode w)) ∧
    (∀ v n, decode w ≠ .error (.invalidRegister v n))

/-! ### Register file and ALU -/

/-- LDL and ADDL (R700, R701). -/
def Obligations.LiteralLoadAndWrappingAdd : Prop :=
  DecodesAs 0x6000#16 0xF000#16 (fun w => .ldl (fieldX w) (fieldKK w)) ∧
  DecodesAs 0x7000#16 0xF000#16 (fun w => .addl (fieldX w) (fieldKK w)) ∧
  ∀ (x : Reg) (kk : Byte) (s : State),
    (∃ t, exec (.ldl x kk) s = .next t ∧ t.reg x = kk ∧ RegsOutside [x] s t ∧ ChangesOnly [.regs] s t) ∧
    (∃ t, exec (.addl x kk) s = .next t ∧ (t.reg x).toNat = ((s.reg x).toNat + kk.toNat) % 256 ∧
      RegsOutside [x] s t ∧ ChangesOnly [.regs] s t)

/-- LD (R710). -/
def Obligations.RegisterCopy : Prop :=
  DecodesAs 0x8000#16 0xF00F#16 (fun w => .ld (fieldX w) (fieldY w)) ∧
  ∀ (x y : Reg) (s : State), ∃ t, exec (.ld x y) s = .next t ∧ t.reg x = s.reg y ∧
    RegsOutside [x] s t ∧ ChangesOnly [.regs] s t

/-- OR, AND and XOR, bit by bit, with the `vf_reset` quirk, whose write of VF lands last (R711 to R714). -/
def Obligations.LogicWithVfReset : Prop :=
  DecodesAs 0x8001#16 0xF00F#16 (fun w => .or (fieldX w) (fieldY w)) ∧
  DecodesAs 0x8002#16 0xF00F#16 (fun w => .and (fieldX w) (fieldY w)) ∧
  DecodesAs 0x8003#16 0xF00F#16 (fun w => .xor (fieldX w) (fieldY w)) ∧
  ∀ (i : Reg → Reg → Instr) (f : Bool → Bool → Bool),
    ((i, f) = (Instr.or, or) ∨ (i, f) = (Instr.and, and) ∨ (i, f) = (Instr.xor, xor)) →
    ∀ (x y : Reg) (s : State), ∃ t, exec (i x y) s = .next t ∧
      (¬ (x = Reg.vf ∧ s.quirks.vfReset = true) →
        ∀ b : Nat, b < 8 → (t.reg x).getLsbD b = f ((s.reg x).getLsbD b) ((s.reg y).getLsbD b)) ∧
      (s.quirks.vfReset = true → t.reg Reg.vf = 0#8 ∧ RegsOutside [x, Reg.vf] s t) ∧
      (s.quirks.vfReset = false → RegsOutside [x] s t) ∧
      ChangesOnly [.regs] s t

/-- ADDC: the exact sum reduced, VF = 1 on carry; with x = F the carry wins (R720). -/
def Obligations.AddWithCarry : Prop :=
  DecodesAs 0x8004#16 0xF00F#16 (fun w => .addc (fieldX w) (fieldY w)) ∧
  ∀ (x y : Reg) (s : State), ∃ t, exec (.addc x y) s = .next t ∧
    (x ≠ Reg.vf → (t.reg x).toNat = ((s.reg x).toNat + (s.reg y).toNat) % 256) ∧
    (t.reg Reg.vf = if (s.reg x).toNat + (s.reg y).toNat > 255 then 1#8 else 0#8) ∧
    RegsOutside [x, Reg.vf] s t ∧ ChangesOnly [.regs] s t

/-- SUBC and SUBN: the exact difference reduced mod 256, VF = 1 on no borrow; with x = F the flag wins (R721, R722). -/
def Obligations.SubtractWithNoBorrow : Prop :=
  DecodesAs 0x8005#16 0xF00F#16 (fun w => .subc (fieldX w) (fieldY w)) ∧
  DecodesAs 0x8007#16 0xF00F#16 (fun w => .subn (fieldX w) (fieldY w)) ∧
  ∀ (x y : Reg) (s : State),
    (∃ t, exec (.subc x y) s = .next t ∧
      (x ≠ Reg.vf → ((t.reg x).toNat : Int) = (((s.reg x).toNat : Int) - (s.reg y).toNat) % 256) ∧
      (t.reg Reg.vf = if (s.reg x).toNat ≥ (s.reg y).toNat then 1#8 else 0#8) ∧
      RegsOutside [x, Reg.vf] s t ∧ ChangesOnly [.regs] s t) ∧
    (∃ t, exec (.subn x y) s = .next t ∧
      (x ≠ Reg.vf → ((t.reg x).toNat : Int) = (((s.reg y).toNat : Int) - (s.reg x).toNat) % 256) ∧
      (t.reg Reg.vf = if (s.reg y).toNat ≥ (s.reg x).toNat then 1#8 else 0#8) ∧
      RegsOutside [x, Reg.vf] s t ∧ ChangesOnly [.regs] s t)

/-- SHRC and SHLC: the source by the `shifting` quirk, the bit shifted out into VF; with x = F the bit wins (R730, R731). -/
def Obligations.ShiftsByOne : Prop :=
  DecodesAs 0x8006#16 0xF00F#16 (fun w => .shrc (fieldX w) (fieldY w)) ∧
  DecodesAs 0x800E#16 0xF00F#16 (fun w => .shlc (fieldX w) (fieldY w)) ∧
  ∀ (x y : Reg) (s : State) (src : Nat),
    (src = if s.quirks.shifting = true then (s.reg x).toNat else (s.reg y).toNat) →
    (∃ t, exec (.shrc x y) s = .next t ∧ (x ≠ Reg.vf → (t.reg x).toNat = src / 2) ∧
      (t.reg Reg.vf).toNat = src % 2 ∧ RegsOutside [x, Reg.vf] s t ∧ ChangesOnly [.regs] s t) ∧
    (∃ t, exec (.shlc x y) s = .next t ∧ (x ≠ Reg.vf → (t.reg x).toNat = src * 2 % 256) ∧
      (t.reg Reg.vf).toNat = src / 128 ∧ RegsOutside [x, Reg.vf] s t ∧ ChangesOnly [.regs] s t)

/-- RND: the step's random byte under the mask, whatever the byte is (R740). -/
def Obligations.RandomByteUnderMask : Prop :=
  DecodesAs 0xC000#16 0xF000#16 (fun w => .rnd (fieldX w) (fieldKK w)) ∧
  ∀ (x : Reg) (kk : Byte) (s : State), ∃ t, exec (.rnd x kk) s = .next t ∧
    (∀ b : Nat, b < 8 → (t.reg x).getLsbD b = (s.latch.randByte.getLsbD b && kk.getLsbD b)) ∧
    RegsOutside [x] s t ∧ ChangesOnly [.regs] s t

/-! ### Skips -/

/-- SEQ, SNELIT, SE and SNE: a taken skip adds 2 to pc (R600 to R603). -/
def Obligations.EqualitySkips : Prop :=
  DecodesAs 0x3000#16 0xF000#16 (fun w => .seq (fieldX w) (fieldKK w)) ∧
  DecodesAs 0x4000#16 0xF000#16 (fun w => .snelit (fieldX w) (fieldKK w)) ∧
  DecodesAs 0x5000#16 0xF000#16 (fun w => .se (fieldX w) (fieldY w)) ∧
  DecodesAs 0x9000#16 0xF000#16 (fun w => .sne (fieldX w) (fieldY w)) ∧
  ∀ (x y : Reg) (kk : Byte) (s : State),
    (∃ t, exec (.seq x kk) s = .next t ∧ t.pc = (if s.reg x = kk then s.pc + 2#16 else s.pc) ∧
      ChangesOnly [.pc] s t) ∧
    (∃ t, exec (.snelit x kk) s = .next t ∧ t.pc = (if s.reg x = kk then s.pc else s.pc + 2#16) ∧
      ChangesOnly [.pc] s t) ∧
    (∃ t, exec (.se x y) s = .next t ∧ t.pc = (if s.reg x = s.reg y then s.pc + 2#16 else s.pc) ∧
      ChangesOnly [.pc] s t) ∧
    (∃ t, exec (.sne x y) s = .next t ∧ t.pc = (if s.reg x = s.reg y then s.pc else s.pc + 2#16) ∧
      ChangesOnly [.pc] s t)

/-- SKP and SKNP: the key numbered by Vx, InvalidKey above 0xF (R610, R611). -/
def Obligations.KeySkips : Prop :=
  DecodesAs 0xE09E#16 0xF0FF#16 (fun w => .skp (fieldX w)) ∧
  DecodesAs 0xE0A1#16 0xF0FF#16 (fun w => .sknp (fieldX w)) ∧
  ∀ (x : Reg) (s : State),
    (∀ h : (s.reg x).toNat < 16,
      (∃ t, exec (.skp x) s = .next t ∧
        t.pc = (if s.keys[(s.reg x).toNat] = true then s.pc + 2#16 else s.pc) ∧ ChangesOnly [.pc] s t) ∧
      (∃ t, exec (.sknp x) s = .next t ∧
        t.pc = (if s.keys[(s.reg x).toNat] = true then s.pc else s.pc + 2#16) ∧ ChangesOnly [.pc] s t)) ∧
    (0xF < (s.reg x).toNat → Raises (exec (.skp x) s) (.invalidKey (s.reg x)) s ∧
      Raises (exec (.sknp x) s) (.invalidKey (s.reg x)) s)

/-! ### Control transfer -/

/-- RET: pc <- stack[SP - 1], the entry itself kept; StackUnderflow when SP = 0 (R500). -/
def Obligations.ReturnPops : Prop :=
  DecodesAs 0x00EE#16 0xFFFF#16 (fun _ => .ret) ∧
  ∀ s : State,
    (0 < s.sp.val → ∃ t, exec .ret s = .next t ∧ t.sp.val + 1 = s.sp.val ∧
      (∀ h : s.sp.val - 1 < 16, t.pc = s.stack[s.sp.val - 1]) ∧ t.stack = s.stack ∧
      ChangesOnly [.pc, .stack] s t) ∧
    (s.sp.val = 0 → Raises (exec .ret s) .stackUnderflow s)

/-- JP: pc <- nnn; `halted` becomes true exactly on a jump to the instruction's own address, and is never cleared (R501). -/
def Obligations.JumpSetsHaltedOnSelfLoop : Prop :=
  DecodesAs 0x1000#16 0xF000#16 (fun w => .jp (fieldNNN w)) ∧
  ∀ (nnn : Addr) (s : State), ∃ t, exec (.jp nnn) s = .next t ∧ t.pc.toNat = nnn.toNat ∧
    (nnn.toNat = s.latch.pcInstr.toNat → t.halted = true) ∧
    (nnn.toNat ≠ s.latch.pcInstr.toNat → t.halted = s.halted) ∧ ChangesOnly [.pc, .halted] s t

/-- CALL: the address after the CALL is pushed; StackOverflow when SP = 16 (R502). -/
def Obligations.CallPushes : Prop :=
  DecodesAs 0x2000#16 0xF000#16 (fun w => .call (fieldNNN w)) ∧
  ∀ (nnn : Addr) (s : State),
    (s.sp.val < 16 → ∃ t, exec (.call nnn) s = .next t ∧ t.sp.val = s.sp.val + 1 ∧ t.pc.toNat = nnn.toNat ∧
      (∀ k : Fin 16, t.stack[k.val] = if k.val = s.sp.val then s.pc else s.stack[k.val]) ∧
      ChangesOnly [.pc, .stack] s t) ∧
    (s.sp.val = 16 → Raises (exec (.call nnn) s) .stackOverflow s)

/-- JPL: pc <- V0 + nnn, not masked to 12 bits; `halted` is never set (R503). -/
def Obligations.IndexedJump : Prop :=
  DecodesAs 0xB000#16 0xF000#16 (fun w => .jpl (fieldNNN w)) ∧
  ∀ (nnn : Addr) (s : State), ∃ t, exec (.jpl nnn) s = .next t ∧
    t.pc.toNat = (s.reg 0#4).toNat + nnn.toNat ∧ ChangesOnly [.pc] s t

/-- A RET run in the state a CALL left comes back to the word after the CALL, with SP as it was (R500, R502). -/
def Obligations.ReturnAfterCallComesBack : Prop :=
  ∀ (nnn : Addr) (s : State), s.sp.val < 16 → ∃ t u, exec (.call nnn) s = .next t ∧ exec .ret t = .next u ∧
    u.pc = s.pc ∧ u.sp = s.sp ∧ (∀ k : Fin 16, k.val < s.sp.val → u.stack[k.val] = s.stack[k.val]) ∧
    ChangesOnly [.stack] s u

/-! ### Index register and memory -/

/-- LDI, ADDI and LDSPR write I masked to 12 bits, and no flag (R800, R801, R802). -/
def Obligations.IndexRegisterWrites : Prop :=
  DecodesAs 0xA000#16 0xF000#16 (fun w => .ldi (fieldNNN w)) ∧
  DecodesAs 0xF01E#16 0xF0FF#16 (fun w => .addi (fieldX w)) ∧
  DecodesAs 0xF029#16 0xF0FF#16 (fun w => .ldspr (fieldX w)) ∧
  ∀ (x : Reg) (nnn : Addr) (s : State),
    (∃ t, exec (.ldi nnn) s = .next t ∧ t.idx = nnn ∧ ChangesOnly [.idx] s t) ∧
    (∃ t, exec (.addi x) s = .next t ∧ t.idx.toNat = (s.idx.toNat + (s.reg x).toNat) % 0x1000 ∧
      ChangesOnly [.idx] s t) ∧
    (∃ t, exec (.ldspr x) s = .next t ∧ t.idx.toNat = (s.reg x).toNat * 5 ∧ ChangesOnly [.idx] s t)

/-- LDBCD: hundreds, tens and ones at I, I+1, I+2; MemoryOutOfBounds, with nothing stored, when I > 0xFFD (R803).
That the list form stays canonical is the model's choice (notes/assumptions/14.md). -/
def Obligations.DecimalDigitsStored : Prop :=
  DecodesAs 0xF033#16 0xF0FF#16 (fun w => .ldbcd (fieldX w)) ∧
  ∀ (x : Reg) (s : State),
    (s.idx.toNat ≤ 0xFFD → ∃ t, exec (.ldbcd x) s = .next t ∧ ChangesOnly [.mem] s t ∧
      (s.mem.wf = true → t.mem.wf = true ∧ MemOutside s.idx.toNat 3 s t ∧
        (t.mem.read s.idx.toNat).toNat = (s.reg x).toNat / 100 ∧
        (t.mem.read (s.idx.toNat + 1)).toNat = (s.reg x).toNat / 10 % 10 ∧
        (t.mem.read (s.idx.toNat + 2)).toNat = (s.reg x).toNat % 10)) ∧
    (0xFFD < s.idx.toNat → Raises (exec (.ldbcd x) s) (.memoryOutOfBounds 0x1000) s)

/-- PUSHREG: V0..=Vx at I, I+1, ...; I advances under the `memory` quirk; MemoryOutOfBounds, with nothing stored, when
I + x > 0xFFF (R804). That the list form stays canonical is the model's choice (notes/assumptions/14.md). -/
def Obligations.RegisterBlockStored : Prop :=
  DecodesAs 0xF055#16 0xF0FF#16 (fun w => .pushreg (fieldX w)) ∧
  ∀ (x : Reg) (s : State),
    (s.idx.toNat + x.toNat ≤ 0xFFF → ∃ t, exec (.pushreg x) s = .next t ∧ ChangesOnly [.mem, .idx] s t ∧
      t.idx.toNat = (if s.quirks.memory = true then (s.idx.toNat + x.toNat + 1) % 0x1000 else s.idx.toNat) ∧
      (s.mem.wf = true → t.mem.wf = true ∧ MemOutside s.idx.toNat (x.toNat + 1) s t ∧
        ∀ k : Reg, k.toNat ≤ x.toNat → t.mem.read (s.idx.toNat + k.toNat) = s.reg k)) ∧
    (0xFFF < s.idx.toNat + x.toNat → Raises (exec (.pushreg x) s) (.memoryOutOfBounds 0x1000) s)

/-- POPREG: V0..=Vx from I, I+1, ...; I advances under the `memory` quirk; MemoryOutOfBounds, with nothing loaded, when
I + x > 0xFFF (R805). -/
def Obligations.RegisterBlockLoaded : Prop :=
  DecodesAs 0xF065#16 0xF0FF#16 (fun w => .popreg (fieldX w)) ∧
  ∀ (x : Reg) (s : State),
    (s.idx.toNat + x.toNat ≤ 0xFFF → ∃ t, exec (.popreg x) s = .next t ∧ ChangesOnly [.regs, .idx] s t ∧
      t.idx.toNat = (if s.quirks.memory = true then (s.idx.toNat + x.toNat + 1) % 0x1000 else s.idx.toNat) ∧
      ∀ k : Reg, t.reg k =
        if k.toNat ≤ x.toNat then s.mem.read (s.idx.toNat + k.toNat) else s.reg k) ∧
    (0xFFF < s.idx.toNat + x.toNat → Raises (exec (.popreg x) s) (.memoryOutOfBounds 0x1000) s)

/-- MemRead and MemWrite of one byte: a byte written is the byte read and every other byte stays (R220), and an address above
0xFFF reports 0x1000 (R206, R207). That the list form is kept is the model's choice (notes/assumptions/14.md). -/
def Obligations.OneByteAccesses : Prop :=
  ∀ (m : Memory) (a : Nat) (b : Byte),
    (a ≤ 0xFFF → memRead m a = .ok (m.read a) ∧
      ∃ m', memWrite m a b = .ok m' ∧
        (m.wf = true → m'.wf = true ∧ memRead m' a = .ok b ∧ ∀ a', a' ≠ a → m'.read a' = m.read a')) ∧
    (0xFFF < a → memRead m a = .error (.memoryOutOfBounds 0x1000) ∧
      memWrite m a b = .error (.memoryOutOfBounds 0x1000))

/-- A register block stored by PUSHREG over the next two bytes to fetch is what the next fetch reads; the PUSHREG itself
still ran (R223). -/
def Obligations.StoredBytesAreFetchedNext : Prop :=
  ∀ (s : State) (x k k' : Reg), s.fault = none → s.mem.wf = true → s.pc.toNat ≤ 0xFFE →
    decode s.fetchWord = .ok (.pushreg x) → s.idx.toNat + x.toNat ≤ 0xFFF →
    k.toNat ≤ x.toNat → k'.toNat ≤ x.toNat → s.idx.toNat + k.toNat = s.pc.toNat + 2 →
    k'.toNat = k.toNat + 1 →
    ∃ t, step s = .next t ∧ t.result = some (.ok (.pushreg x)) ∧ t.fetchWord = composeWord (s.reg k) (s.reg k')

/-! ### Frame buffer -/

/-- CLS (R900). -/
def Obligations.ClearScreen : Prop :=
  DecodesAs 0x00E0#16 0xFFFF#16 (fun _ => .cls) ∧
  ∀ s : State, ∃ t, exec .cls s = .next t ∧ (∀ px py : Nat, t.fb.pixel px py = false) ∧ ChangesOnly [.fb] s t

/-- DRW as a law of single pixels: each pixel of the frame becomes its exclusive or with the sprite's, where the start
wraps and the pixels clip; VF tells whether a pixel was erased; MemoryOutOfBounds, with nothing drawn, when a sprite row lies
beyond 0xFFF (R910, R911, R912). -/
def Obligations.SpriteDrawnPixelByPixel : Prop :=
  DecodesAs 0xD000#16 0xF000#16 (fun w => .drw (fieldX w) (fieldY w) (fieldN w)) ∧
  ∀ (x y : Reg) (n : Nibble) (s : State),
    (n = 0#4 ∨ s.idx.toNat + n.toNat ≤ 0x1000 → ∃ t, exec (.drw x y n) s = .next t ∧
      (∀ px py : Nat, px < 64 → py < 32 →
        t.fb.pixel px py = xor (s.fb.pixel px py) (s.spriteBit x y n px py)) ∧
      (s.spriteErases x y n → t.reg Reg.vf = 1#8) ∧ (¬ s.spriteErases x y n → t.reg Reg.vf = 0#8) ∧
      RegsOutside [Reg.vf] s t ∧ ChangesOnly [.regs, .fb] s t) ∧
    (n ≠ 0#4 → 0x1000 < s.idx.toNat + n.toNat →
      Raises (exec (.drw x y n) s) (.memoryOutOfBounds 0x1000) s)

/-- Drawing the same sprite twice at the same place restores every pixel; when the first draw erased nothing and the sprite
has a visible pixel, the second sets VF (95_test_vectors.md L1.1 property 8). VF must not be a coordinate, since the first
draw writes it. -/
def Obligations.DrawingTwiceRestores : Prop :=
  ∀ (x y : Reg) (n : Nibble) (s : State), x ≠ Reg.vf → y ≠ Reg.vf → s.idx.toNat + n.toNat ≤ 0x1000 →
    ∃ t u, exec (.drw x y n) s = .next t ∧ exec (.drw x y n) t = .next u ∧
      (∀ px py : Nat, u.fb.pixel px py = s.fb.pixel px py) ∧ ChangesOnly [.regs] s u ∧ RegsOutside [Reg.vf] s u ∧
      (t.reg Reg.vf = 0#8 → (∃ px py : Nat, px < 64 ∧ py < 32 ∧ s.spriteBit x y n px py = true) →
        u.reg Reg.vf = 1#8)

/-- The host reads 2048 frame-buffer bits; the pixel at column x, row y has the linear index y*64 + x (R145, R150). -/
def Obligations.FrameBufferPortIsRowMajor : Prop :=
  ∀ s : State, s.fbOut.length = 2048 ∧
    ∀ px py : Nat, px < 64 → py < 32 → s.fbOut[py * 64 + px]? = some (s.fb.pixel px py)

/-! ### Timers and key wait -/

/-- MOVDT, LDDT and LDST (R1000, R1001, R1002), in the execute phase and in a whole step: MOVDT reads the value after this
step's tick, and what LDDT and LDST write in a step, this step's tick does not touch. -/
def Obligations.TimerReadsAndWrites : Prop :=
  DecodesAs 0xF007#16 0xF0FF#16 (fun w => .movdt (fieldX w)) ∧
  DecodesAs 0xF015#16 0xF0FF#16 (fun w => .lddt (fieldX w)) ∧
  DecodesAs 0xF018#16 0xF0FF#16 (fun w => .ldst (fieldX w)) ∧
  ∀ (x : Reg) (s : State),
    (∃ t, exec (.movdt x) s = .next t ∧ t.reg x = s.dt ∧ RegsOutside [x] s t ∧ ChangesOnly [.regs] s t) ∧
    (∃ t, exec (.lddt x) s = .next t ∧ t.dt = s.reg x ∧ ChangesOnly [.dt] s t) ∧
    (∃ t, exec (.ldst x) s = .next t ∧ t.st = s.reg x ∧ ChangesOnly [.st] s t) ∧
    (s.fault = none → s.pc.toNat ≤ 0xFFE →
      (decode s.fetchWord = .ok (.movdt x) → ∃ t, step s = .next t ∧ t.reg x = t.dt ∧
        t.dt.toNat = s.dt.toNat - (if s.nextTurn.tickDue = true then 1 else 0)) ∧
      (decode s.fetchWord = .ok (.lddt x) → ∃ t, step s = .next t ∧ t.dt = s.reg x) ∧
      (decode s.fetchWord = .ok (.ldst x) → ∃ t, step s = .next t ∧ t.st = s.reg x))

/-- A value LDDT or LDST writes is first decremented by the tick of a later step: the next step's tick works on the value
written, if it is due and the next step does not itself write the timer (R1003). -/
def Obligations.WrittenTimerIsTickedByTheNextDueStep : Prop :=
  ∀ (s t u : State) (x : Reg), step s = .next t → step t = .next u → s.pc.toNat ≤ 0xFFE →
    (decode s.fetchWord = .ok (.lddt x) → (∀ y, decode t.fetchWord ≠ .ok (.lddt y)) →
      u.dt.toNat = (s.reg x).toNat - (if t.nextTurn.tickDue = true then 1 else 0)) ∧
    (decode s.fetchWord = .ok (.ldst x) → (∀ y, decode t.fetchWord ≠ .ok (.ldst y)) →
      u.st.toNat = (s.reg x).toNat - (if t.nextTurn.tickDue = true then 1 else 0))

/-- LDKB (R1030): with no key event pc goes back by 2 and nothing else changes; with one, Vx is its key id. A whole step of
LDKB without a key event leaves pc where it was and reports Ok(LDKB), and the timers tick all the same. -/
def Obligations.KeyWaitPollsOrStores : Prop :=
  DecodesAs 0xF00A#16 0xF0FF#16 (fun w => .ldkb (fieldX w)) ∧
  ∀ (x : Reg) (s : State),
    (s.latch.keyEvent = none →
      ∃ t, exec (.ldkb x) s = .next t ∧ t.pc = s.pc - 2#16 ∧ ChangesOnly [.pc] s t) ∧
    (∀ k : Nibble, s.latch.keyEvent = some k →
      ∃ t, exec (.ldkb x) s = .next t ∧ (t.reg x).toNat = k.toNat ∧ RegsOutside [x] s t ∧ ChangesOnly [.regs] s t) ∧
    (s.fault = none → s.pc.toNat ≤ 0xFFE → decode s.fetchWord = .ok (.ldkb x) → s.nextTurn.keyEvent = none →
      ∃ t, step s = .next t ∧ t.pc = s.pc ∧ t.result = some (.ok (.ldkb x)) ∧
        t.dt.toNat = s.dt.toNat - (if s.nextTurn.tickDue = true then 1 else 0) ∧
        t.st.toNat = s.st.toNat - (if s.nextTurn.tickDue = true then 1 else 0) ∧
        ChangesOnly [.dt, .st, .keys, .halted, .result, .latch, .host] s t)

/-! ### The step -/

/-- The fetched word is big-endian: the byte at the lower address is the high one (R202). -/
def Obligations.FetchIsBigEndian : Prop :=
  ∀ s : State, s.fetchWord.toNat = (s.mem.read s.pc.toNat).toNat * 256 + (s.mem.read (s.pc.toNat + 1)).toNat ∧
    fieldH s.fetchWord = (s.mem.read s.pc.toNat).extractLsb' 4 4 ∧ fieldKK s.fetchWord = s.mem.read (s.pc.toNat + 1)

/-- When the two bytes at pc decode to i, the step is exec of i in the state that follows the host's turn, the tick, the
sampling and the advance; then `result` is Ok(i) unless an error was raised, and the latch is released (R400, R404, R405,
R407, R408, R409). The host's turn is the model's own reading of R160 (notes/assumptions/1.md). -/
def Obligations.StepRunsTheDecodedInstruction : Prop :=
  ∀ (s : State) (i : Instr), s.fault = none → s.pc.toNat ≤ 0xFFE →
    decodeBytes (s.mem.read s.pc.toNat) (s.mem.read (s.pc.toNat + 1)) = .ok i →
    ∃ u v t : State, exec i u = .next v ∧ step s = .next t ∧
      u.pc = s.pc + 2#16 ∧ u.latch = ⟨s.pc, s.nextTurn.keyEvent, s.nextTurn.randByte⟩ ∧
      u.dt.toNat = s.dt.toNat - (if s.nextTurn.tickDue = true then 1 else 0) ∧
      u.st.toNat = s.st.toNat - (if s.nextTurn.tickDue = true then 1 else 0) ∧
      u.keys = writeKeys s.keys s.nextTurn.keyWrites ∧ u.halted = s.nextTurn.haltedWrite.getD s.halted ∧
      ChangesOnly [.pc, .dt, .st, .keys, .halted, .latch, .host] s u ∧
      (∀ (h : HostTurn) (hs : List HostTurn), s.script = h :: hs →
        s.nextTurn = h ∧ u.script = hs ∧ u.drawn = s.drawn) ∧
      (s.script = [] → s.nextTurn = Config.freeTurn s.drawn ∧ u.script = [] ∧ u.drawn = s.drawn + 1) ∧
      t.result = (if v.fault = none then some (.ok i) else v.result) ∧ t.latch = Latch.idle ∧
      ChangesOnly [.result, .latch] v t

/-- A fetch with pc > 0xFFE raises FetchOutOfBounds: nothing is fetched and pc is not advanced; the tick has happened
(R204, R403). The core itself writes neither `halted` nor a key flag (R125, R140): both hold what the host's turn left, and
that turn is the model's own reading of R160 (notes/assumptions/1.md, 8.md). -/
def Obligations.FetchBeyondMemoryRaises : Prop :=
  ∀ s : State, s.fault = none → 0xFFE < s.pc.toNat →
    ∃ t, step s = .next t ∧ t.fault = some ⟨.fetchOutOfBounds s.pc, s.pc⟩ ∧
      t.result = some (.err ⟨.fetchOutOfBounds s.pc, s.pc⟩) ∧
      t.dt.toNat = s.dt.toNat - (if s.nextTurn.tickDue = true then 1 else 0) ∧
      t.st.toNat = s.st.toNat - (if s.nextTurn.tickDue = true then 1 else 0) ∧
      t.keys = writeKeys s.keys s.nextTurn.keyWrites ∧ t.halted = s.nextTurn.haltedWrite.getD s.halted ∧
      t.latch = Latch.idle ∧ t.script = s.script.tail ∧
      t.drawn = (if s.script = [] then s.drawn + 1 else s.drawn) ∧
      ChangesOnly [.dt, .st, .keys, .halted, .fault, .result, .latch, .host] s t

/-- A word that decodes to nothing raises its decode error at pc_instr: the tick and the advance of pc stay, and there is no
other effect of the core (R1101, R1103): `halted` and the key flags hold what the host's turn left (R125, R140). That turn is
the model's own reading of R160 (notes/assumptions/1.md, 8.md). -/
def Obligations.IllegalWordRaisesDecodeError : Prop :=
  ∀ s : State, s.fault = none → s.pc.toNat ≤ 0xFFE → legalWord s.fetchWord = false →
    ∃ t c, step s = .next t ∧
      c = (if fieldH s.fetchWord = 0x8#4 then ErrorCause.unknownSubcode 0x8#4 (fieldN s.fetchWord)
        else ErrorCause.unknownOpcode s.fetchWord) ∧
      t.fault = some ⟨c, s.pc⟩ ∧ t.result = some (.err ⟨c, s.pc⟩) ∧ t.pc = s.pc + 2#16 ∧
      t.dt.toNat = s.dt.toNat - (if s.nextTurn.tickDue = true then 1 else 0) ∧
      t.st.toNat = s.st.toNat - (if s.nextTurn.tickDue = true then 1 else 0) ∧
      t.keys = writeKeys s.keys s.nextTurn.keyWrites ∧ t.halted = s.nextTurn.haltedWrite.getD s.halted ∧
      t.latch = Latch.idle ∧ t.script = s.script.tail ∧
      t.drawn = (if s.script = [] then s.drawn + 1 else s.drawn) ∧
      ChangesOnly [.pc, .dt, .st, .keys, .halted, .fault, .result, .latch, .host] s t

/-- The step stops exactly when the fault latch is set: a faulted core has no step, any other core answers a next state
(R401). -/
def Obligations.StepStopsExactlyWhenFaulted : Prop :=
  ∀ s : State, (∀ e, s.fault = some e → step s = .fault (.coreFaulted e)) ∧
    (s.fault = none → ∃ t, step s = .next t)

/-- In every step, whatever it runs or raises, DT and ST go down by one if `tick_due` and they are nonzero, but for the
timer that LDDT or LDST then writes (R402, R414). -/
def Obligations.TimersTickOncePerDueStep : Prop :=
  ∀ s t : State, step s = .next t →
    ((∀ x, ¬ (s.pc.toNat ≤ 0xFFE ∧ decode s.fetchWord = .ok (.lddt x))) →
      t.dt.toNat = s.dt.toNat - (if s.nextTurn.tickDue = true then 1 else 0)) ∧
    ((∀ x, ¬ (s.pc.toNat ≤ 0xFFE ∧ decode s.fetchWord = .ok (.ldst x))) →
      t.st.toNat = s.st.toNat - (if s.nextTurn.tickDue = true then 1 else 0))

/-- What a step does to the state no instruction writes: the key flags take the host's writes and no others (R140), the
quirks never change (R130). -/
def Obligations.KeysAndQuirksAreTheHosts : Prop :=
  ∀ s t : State, step s = .next t →
    t.keys = writeKeys s.keys s.nextTurn.keyWrites ∧ t.quirks = s.quirks

/-- `halted` in every step, whatever it runs or raises: true when the step runs JP to its own address, else what the host's
turn left (R125, R501). That turn is the model's own reading of R160 (notes/assumptions/1.md, 8.md). -/
def Obligations.HaltedIsTheHostsButForSelfJump : Prop :=
  ∀ s t : State, step s = .next t →
    (s.selfJumps → t.halted = true) ∧ (¬ s.selfJumps → t.halted = s.nextTurn.haltedWrite.getD s.halted)

/-- The step does not read `halted`: two cores that differ in that flag alone step alike but for that flag (R410). -/
def Obligations.HaltedIsNotRead : Prop :=
  ∀ (s : State) (h : Bool),
    mapNext (fun t => { t with halted := false }) (step { s with halted := h }) =
      mapNext (fun t => { t with halted := false }) (step s)

/-! ### Whole-machine rules over all instructions -/

/-- Every instruction answers a next state in every state: none is refused, none stops. -/
def Obligations.EveryInstructionAnswersNext : Prop :=
  ∀ (i : Instr) (s : State), ∃ t, exec i s = .next t

/-- A part of the state that an instruction changes has that instruction among its writers (R102, R105, R110, R115, R120,
R125, R130, R140, R145, R201). -/
def Obligations.EachPartHasOnlyItsWriters : Prop :=
  ∀ (i : Instr) (s t : State) (p : Part), exec i s = .next t → i.mnemonic ∉ writersOf p → Unchanged p s t

/-- A register changes only by an instruction that names it as a destination, or as the flag side effect on VF
(R101, R102). -/
def Obligations.RegistersChangeOnlyAsListed : Prop :=
  ∀ (i : Instr) (s t : State) (k : Reg), exec i s = .next t → writesReg s.quirks i k = false → t.reg k = s.reg k

/-- Errors in the execute phase: each instruction raises at most its own kind, at pc_instr, and one that raises performs none
of its own effects (R1102, R1121). -/
def Obligations.RuntimeErrorsArePrecise : Prop :=
  ∀ (i : Instr) (s t : State) (e : ErrorRecord), s.fault = none → exec i s = .next t → t.fault = some e →
    runtimeErrorOf i s = some e.cause ∧ e.pcInstr = s.latch.pcInstr ∧ t.result = some (.err e) ∧
      ChangesOnly [.fault, .result] s t

/-- The engine writes `halted` only in JP to its own address, and only to true (R125). -/
def Obligations.OnlySelfJumpSetsHalted : Prop :=
  ∀ (i : Instr) (s t : State), exec i s = .next t → t.halted ≠ s.halted →
    t.halted = true ∧ ∃ nnn : Addr, i = .jp nnn ∧ nnn.toNat = s.latch.pcInstr.toNat

/-- Only LDKB reads `key_event` and only RND reads `rand_byte` (R152, R154, R409). -/
def Obligations.InputsReadOnlyByTheirInstructions : Prop :=
  ∀ (i : Instr) (s : State) (k : Option Nibble) (r : Byte),
    (k = s.latch.keyEvent ∨ i.mnemonic ≠ "LDKB") → (r = s.latch.randByte ∨ i.mnemonic ≠ "RND") →
    exec i { s with latch := ⟨s.latch.pcInstr, k, r⟩ } =
      mapNext (fun t => { t with latch := ⟨s.latch.pcInstr, k, r⟩ }) (exec i s)

/-! ### Construction and the invariant -/

/-- Construction: FONT, the program and zeros in memory, every other piece of state at its reset value; a program over 0xC00
bytes is refused (R1201, R1203, R1204). -/
def Obligations.ConstructionGivesResetValues : Prop :=
  ∀ (font : Vector Byte 80) (program : List Byte) (q : Quirks),
    (program.length ≤ 0xC00 → ∃ s, State.construct font program q = .ok s ∧
      (∀ k : Fin 80, s.mem.read k.val = font[k.val]) ∧
      (∀ k : Fin program.length, s.mem.read (0x200 + k.val) = program[k.val]) ∧
      (∀ a : Nat, 0x50 ≤ a → a < 0x200 ∨ 0x200 + program.length ≤ a → s.mem.read a = 0#8) ∧
      (∀ k : Reg, s.reg k = 0#8) ∧ s.pc = 0x200#16 ∧ s.idx = 0#12 ∧ (∀ k : Fin 16, s.stack[k.val] = 0#16) ∧
      s.sp.val = 0 ∧ s.dt = 0#8 ∧ s.st = 0#8 ∧ s.halted = false ∧ s.quirks = q ∧
      (∀ k : Fin 16, s.keys[k.val] = false) ∧ (∀ x y : Nat, s.fb.pixel x y = false) ∧
      s.fault = none ∧ s.result = none) ∧
    (0xC00 < program.length → State.construct font program q = .error (.programTooLong program.length))

/-- State.reset is the construction with the default FONT, no program and the free quirks: the model's choice of the
construction arguments (notes/assumptions/3.md, 4.md, 5.md). -/
def Obligations.ResetIsTheDefaultConstruction : Prop :=
  State.construct fontParameter [] Config.quirks = .ok State.reset

/-- The invariant holds right after every construction. -/
def Obligations.ConstructionMeetsInvariant : Prop :=
  State.reset.Inv ∧ ∀ (font : Vector Byte 80) (program : List Byte) (q : Quirks) (s : State),
    State.construct font program q = .ok s → s.Inv

/-- Every step keeps the invariant: memory canonical, pc at most 0x10FE, return addresses at most 0x1000, the latch idle,
the fault latch and the result in agreement, only errors of the table latched. -/
def Obligations.StepKeepsInvariant : Prop :=
  ∀ s t : State, s.Inv → step s = .next t → t.Inv

/-- withFetchWord places a word exactly where the step fetches it, and a table word is decoded as the fetch decodes it. -/
def Obligations.PlacedWordIsFetched : Prop :=
  ∀ (s : State) (w : Word), s.mem.wf = true → s.pc.toNat ≤ 0xFFE →
    (s.withFetchWord 16 w.toNat).fetchWord = w ∧ (s.withFetchWord 16 w.toNat).mem.wf = true ∧
      (∀ i, decode w = .ok i ↔ decodeTableWord 16 w.toNat = some i) ∧
      MemOutside s.pc.toNat 2 s (s.withFetchWord 16 w.toNat) ∧ ChangesOnly [.mem] s (s.withFetchWord 16 w.toNat)
end

