-- ==== Sys2Proof/Laws/Decode.lean ====
section
/-! SUPPORT. Laws of the encoding: the fields of a word of each format (R301, R302), and the bytes of a word (R202). -/

namespace Sys2Proof

/-! ### Fields as numbers -/

theorem fieldH_toNat (w : Word) : (fieldH w).toNat = w.toNat / 0x1000 % 16 := by
  simp [fieldH, nibble, BitVec.extractLsb'_toNat, Nat.shiftRight_eq_div_pow]

theorem fieldX_toNat (w : Word) : (fieldX w).toNat = w.toNat / 0x100 % 16 := by
  simp [fieldX, nibble, BitVec.extractLsb'_toNat, Nat.shiftRight_eq_div_pow]

theorem fieldY_toNat (w : Word) : (fieldY w).toNat = w.toNat / 0x10 % 16 := by
  simp [fieldY, nibble, BitVec.extractLsb'_toNat, Nat.shiftRight_eq_div_pow]

theorem fieldN_toNat (w : Word) : (fieldN w).toNat = w.toNat % 16 := by
  simp [fieldN, nibble, BitVec.extractLsb'_toNat]

theorem fieldKK_toNat (w : Word) : (fieldKK w).toNat = w.toNat % 256 := by
  simp [fieldKK, BitVec.extractLsb'_toNat]

theorem fieldNNN_toNat (w : Word) : (fieldNNN w).toNat = w.toNat % 0x1000 := by
  simp [fieldNNN, BitVec.extractLsb'_toNat]

/-! ### Words as numbers -/

theorem append_toNat {m n : Nat} (a : BitVec m) (b : BitVec n) : (a ++ b).toNat = a.toNat * 2 ^ n + b.toNat := by
  rw [BitVec.toNat_append, Nat.shiftLeft_eq, Nat.mul_comm, ← Nat.two_pow_add_eq_or_of_lt b.isLt]

theorem wordA_toNat (h : Nibble) (nnn : Addr) : (wordA h nnn).toNat = h.toNat * 0x1000 + nnn.toNat := by
  unfold wordA; rw [append_toNat]; omega

theorem wordXK_toNat (h : Nibble) (x : Reg) (kk : Byte) :
    (wordXK h x kk).toNat = h.toNat * 0x1000 + x.toNat * 0x100 + kk.toNat := by
  unfold wordXK; rw [append_toNat, append_toNat]; omega

theorem wordXYN_toNat (h : Nibble) (x y : Reg) (n : Nibble) :
    (wordXYN h x y n).toNat = h.toNat * 0x1000 + x.toNat * 0x100 + y.toNat * 0x10 + n.toNat := by
  unfold wordXYN; rw [append_toNat, append_toNat, append_toNat]; omega

/-! ### The fields of a word of each format -/

@[simp] theorem fieldH_wordA (h : Nibble) (nnn : Addr) : fieldH (wordA h nnn) = h := by
  apply BitVec.eq_of_toNat_eq; rw [fieldH_toNat, wordA_toNat]; have := h.isLt; have := nnn.isLt; omega

@[simp] theorem fieldNNN_wordA (h : Nibble) (nnn : Addr) : fieldNNN (wordA h nnn) = nnn := by
  apply BitVec.eq_of_toNat_eq; rw [fieldNNN_toNat, wordA_toNat]; have := nnn.isLt; omega

@[simp] theorem fieldH_wordXK (h : Nibble) (x : Reg) (kk : Byte) : fieldH (wordXK h x kk) = h := by
  apply BitVec.eq_of_toNat_eq; rw [fieldH_toNat, wordXK_toNat]
  have := h.isLt; have := x.isLt; have := kk.isLt; omega

@[simp] theorem fieldX_wordXK (h : Nibble) (x : Reg) (kk : Byte) : fieldX (wordXK h x kk) = x := by
  apply BitVec.eq_of_toNat_eq; rw [fieldX_toNat, wordXK_toNat]
  have := h.isLt; have := x.isLt; have := kk.isLt; omega

@[simp] theorem fieldKK_wordXK (h : Nibble) (x : Reg) (kk : Byte) : fieldKK (wordXK h x kk) = kk := by
  apply BitVec.eq_of_toNat_eq; rw [fieldKK_toNat, wordXK_toNat]; have := kk.isLt; omega

@[simp] theorem fieldH_wordXYN (h : Nibble) (x y : Reg) (n : Nibble) : fieldH (wordXYN h x y n) = h := by
  apply BitVec.eq_of_toNat_eq; rw [fieldH_toNat, wordXYN_toNat]
  have := h.isLt; have := x.isLt; have := y.isLt; have := n.isLt; omega

@[simp] theorem fieldX_wordXYN (h : Nibble) (x y : Reg) (n : Nibble) : fieldX (wordXYN h x y n) = x := by
  apply BitVec.eq_of_toNat_eq; rw [fieldX_toNat, wordXYN_toNat]
  have := h.isLt; have := x.isLt; have := y.isLt; have := n.isLt; omega

@[simp] theorem fieldY_wordXYN (h : Nibble) (x y : Reg) (n : Nibble) : fieldY (wordXYN h x y n) = y := by
  apply BitVec.eq_of_toNat_eq; rw [fieldY_toNat, wordXYN_toNat]
  have := y.isLt; have := n.isLt; omega

@[simp] theorem fieldN_wordXYN (h : Nibble) (x y : Reg) (n : Nibble) : fieldN (wordXYN h x y n) = n := by
  apply BitVec.eq_of_toNat_eq; rw [fieldN_toNat, wordXYN_toNat]
  have := n.isLt; omega

/-! ### The bytes of a word (R202) -/

@[simp] theorem composeWord_bytes (w : Word) : composeWord (highByte w) (lowByte w) = w := by
  apply BitVec.eq_of_toNat_eq
  have := w.isLt
  rw [composeWord, append_toNat]
  simp [highByte, lowByte, BitVec.extractLsb'_toNat, Nat.shiftRight_eq_div_pow]
  omega

theorem composeWord_toNat (hi lo : Byte) : (composeWord hi lo).toNat = hi.toNat * 256 + lo.toNat := by
  rw [composeWord, append_toNat]; omega

/-! ### Selecting a row -/

/-- The masks of the table (R310) examine whole fields: a word under each mask, as its fields. -/
theorem and_F000 (w : Word) : w &&& 0xF000#16 = wordA (fieldH w) 0#12 := by
  apply BitVec.eq_of_getLsbD_eq
  intro i hi
  simp only [wordA, fieldH, nibble, BitVec.getLsbD_and, BitVec.getLsbD_append, BitVec.getLsbD_extractLsb']
  interval_cases i <;> simp

theorem and_F00F (w : Word) : w &&& 0xF00F#16 = wordXYN (fieldH w) 0#4 0#4 (fieldN w) := by
  apply BitVec.eq_of_getLsbD_eq
  intro i hi
  simp only [wordXYN, fieldH, fieldN, nibble, BitVec.getLsbD_and, BitVec.getLsbD_append, BitVec.getLsbD_extractLsb']
  interval_cases i <;> simp

theorem and_F0FF (w : Word) : w &&& 0xF0FF#16 = wordXK (fieldH w) 0#4 (fieldKK w) := by
  apply BitVec.eq_of_getLsbD_eq
  intro i hi
  simp only [wordXK, fieldH, fieldKK, nibble, BitVec.getLsbD_and, BitVec.getLsbD_append, BitVec.getLsbD_extractLsb']
  interval_cases i <;> simp

end Sys2Proof
end

