-- ==== Sys2Proof/Laws/Memory.lean ====
section
/-! SUPPORT. Laws of memory: read after write, the canonical form is kept, and what the checked runs of bytes do. -/

namespace Sys2Proof.Machine

/-! ### The canonical form -/

theorem Memory.wfFrom_cons {lo k : Nat} {b : Byte} {m : Memory} :
    Memory.wfFrom lo ((k, b) :: m) = true ↔
      lo ≤ k ∧ k < 0x1000 ∧ b ≠ unlistedByte k ∧ Memory.wfFrom (k + 1) m = true := by
  simp [Memory.wfFrom, and_assoc]

theorem Memory.wfFrom_mono {lo lo' : Nat} (h : lo' ≤ lo) : ∀ {m : Memory}, Memory.wfFrom lo m = true →
    Memory.wfFrom lo' m = true
  | [], _ => rfl
  | (k, b) :: m, hm => by
    rw [Memory.wfFrom_cons] at hm ⊢
    exact ⟨le_trans h hm.1, hm.2⟩

/-- Below the least listed address every byte is the unlisted one. -/
theorem Memory.read_below {lo a : Nat} (h : a < lo) : ∀ {m : Memory}, Memory.wfFrom lo m = true →
    m.read a = unlistedByte a
  | [], _ => rfl
  | (k, b) :: m, hm => by
    rw [Memory.wfFrom_cons] at hm
    have hk : k ≠ a := by omega
    simp only [Memory.read, hk, if_false]
    exact Memory.read_below (lo := k + 1) (by omega) hm.2.2.2

theorem Memory.wfFrom_write {lo a : Nat} {b : Byte} (hlo : lo ≤ a) (ha : a < 0x1000) :
    ∀ {m : Memory}, Memory.wfFrom lo m = true → Memory.wfFrom lo (m.write a b) = true
  | [], _ => by
    by_cases hb : b = unlistedByte a
    · simp [Memory.write, hb, Memory.wfFrom]
    · simp only [Memory.write, hb, if_false]
      rw [Memory.wfFrom_cons]
      exact ⟨hlo, ha, hb, rfl⟩
  | (k, c) :: m, hm => by
    obtain ⟨h1, h2, h3, h4⟩ := Memory.wfFrom_cons.1 hm
    by_cases hka : k < a
    · simp only [Memory.write, hka, if_true]
      rw [Memory.wfFrom_cons]
      exact ⟨h1, h2, h3, Memory.wfFrom_write (by omega) ha h4⟩
    · by_cases hk : k = a
      · subst hk
        by_cases hb : b = unlistedByte k
        · simp only [Memory.write, hb, lt_irrefl, if_true, if_false]
          exact Memory.wfFrom_mono (by omega) h4
        · simp only [Memory.write, hb, lt_irrefl, if_true, if_false]
          rw [Memory.wfFrom_cons]
          exact ⟨h1, h2, hb, h4⟩
      · by_cases hb : b = unlistedByte a
        · simp only [Memory.write, hka, hk, hb, if_true, if_false]
          exact hm
        · simp only [Memory.write, hka, hk, hb, if_false]
          rw [Memory.wfFrom_cons, Memory.wfFrom_cons]
          exact ⟨hlo, ha, hb, by omega, h2, h3, h4⟩

/-- A write inside memory keeps the canonical form. -/
theorem Memory.wf_write {m : Memory} {a : Nat} {b : Byte} (ha : a < 0x1000) (hm : m.wf = true) :
    (m.write a b).wf = true := Memory.wfFrom_write (Nat.zero_le a) ha hm

theorem Memory.wf_nil : Memory.wf [] = true := rfl

/-! ### Read after write -/

theorem Memory.read_write_from {lo a : Nat} {b : Byte} (a' : Nat) : ∀ {m : Memory}, Memory.wfFrom lo m = true →
    (m.write a b).read a' = if a' = a then b else m.read a'
  | [], _ => by
    by_cases hb : b = unlistedByte a
    · by_cases h : a' = a
      · subst h; simp [Memory.write, Memory.read, hb]
      · simp [Memory.write, Memory.read, hb, h]
    · by_cases h : a' = a
      · subst h; simp [Memory.write, Memory.read, hb]
      · have h' : a ≠ a' := Ne.symm h
        simp [Memory.write, Memory.read, hb, h, h']
  | (k, c) :: m, hm => by
    obtain ⟨h1, h2, h3, h4⟩ := Memory.wfFrom_cons.1 hm
    by_cases hka : k < a
    · have ih := Memory.read_write_from (a := a) (b := b) a' h4
      by_cases hk' : k = a'
      · have : a' ≠ a := by omega
        subst hk'
        simp only [Memory.write, hka, if_true, Memory.read, this, if_false]
      · simp only [Memory.write, Memory.read, hka, if_true, hk', if_false]
        exact ih
    · by_cases hk : k = a
      · subst hk
        by_cases hb : b = unlistedByte k
        · by_cases h : a' = k
          · subst h
            simp only [Memory.write, lt_irrefl, if_true, if_false, hb]
            exact Memory.read_below (by omega) h4
          · have h' : k ≠ a' := Ne.symm h
            simp [Memory.write, Memory.read, hb, h, h']
        · by_cases h : a' = k
          · subst h; simp [Memory.write, Memory.read, hb]
          · have h' : k ≠ a' := Ne.symm h
            simp [Memory.write, Memory.read, hb, h, h']
      · by_cases hb : b = unlistedByte a
        · by_cases h : a' = a
          · subst h
            simp only [Memory.write, hka, hk, hb, if_true, if_false]
            rw [Memory.read_below (lo := a' + 1) (by omega) (m := (k, c) :: m)]
            rw [Memory.wfFrom_cons]
            exact ⟨by omega, h2, h3, h4⟩
          · simp [Memory.write, hka, hk, hb, h]
        · by_cases h : a' = a
          · subst h; simp [Memory.write, Memory.read, hka, hk, hb]
          · have h' : a ≠ a' := Ne.symm h
            simp [Memory.write, Memory.read, hka, hk, hb, h, h']

/-- What is read after a write: the byte written at its address, every other byte as before. -/
theorem Memory.read_write {m : Memory} (hm : m.wf = true) (a a' : Nat) (b : Byte) :
    (m.write a b).read a' = if a' = a then b else m.read a' := Memory.read_write_from a' hm

/-! ### Bytes at consecutive addresses -/

theorem Memory.wf_place : ∀ {bs : List Byte} {m : Memory} {a : Nat}, a + bs.length ≤ 0x1000 → m.wf = true →
    (m.place a bs).wf = true
  | [], _, _, _, hm => hm
  | b :: bs, m, a, h, hm => by
    simp only [List.length_cons] at h
    have hw := Memory.wf_write (b := b) (a := a) (by omega) hm
    exact Memory.wf_place (m := m.write a b) (a := a + 1) (by omega) hw

/-- What is read after bytes are placed: the byte placed there, else the byte before. -/
theorem Memory.read_place : ∀ {bs : List Byte} {m : Memory} {a : Nat}, a + bs.length ≤ 0x1000 → m.wf = true →
    ∀ a', (m.place a bs).read a' = if a ≤ a' then (bs[a' - a]?).getD (m.read a') else m.read a'
  | [], m, a, _, _, a' => by simp [Memory.place]
  | b :: bs, m, a, h, hm, a' => by
    simp only [List.length_cons] at h
    have hw := Memory.wf_write (b := b) (a := a) (by omega) hm
    rw [Memory.place, Memory.read_place (by omega) hw, Memory.read_write hm]
    by_cases h1 : a' = a
    · subst h1; simp
    · by_cases h2 : a ≤ a'
      · have h3 : a + 1 ≤ a' := by omega
        have h4 : a' - a = (a' - (a + 1)) + 1 := by omega
        simp only [h1, h2, h3, if_true, if_false]
        rw [h4, List.getElem?_cons_succ]
      · have h3 : ¬ a + 1 ≤ a' := by omega
        simp [h1, h2, h3]

theorem rangeLeavesMemory_eq_false {base n : Nat} :
    rangeLeavesMemory base n = false ↔ n = 0 ∨ base + n ≤ 0x1000 := by
  simp [rangeLeavesMemory]; omega

theorem rangeLeavesMemory_eq_true {base n : Nat} :
    rangeLeavesMemory base n = true ↔ 0 < n ∧ 0x1000 < base + n := by
  simp [rangeLeavesMemory]; omega

theorem writeEach_inside : ∀ {bs : List Byte} {m : Memory} {a : Nat}, a + bs.length ≤ 0x1000 →
    writeEach m a bs = .ok (m.place a bs)
  | [], _, _, _ => rfl
  | b :: bs, m, a, h => by
    simp only [List.length_cons] at h
    have ha : ¬ 0xFFF < a := by omega
    simp only [writeEach, memWrite, ha, if_false, Memory.place]
    exact writeEach_inside (by omega)

theorem readEach_inside (m : Memory) : ∀ {n a : Nat}, a + n ≤ 0x1000 →
    readEach m a n = .ok ((List.range n).map fun k => m.read (a + k))
  | 0, _, _ => rfl
  | n + 1, a, h => by
    have ha : ¬ 0xFFF < a := by omega
    have ih := readEach_inside m (n := n) (a := a + 1) (by omega)
    simp only [readEach, memRead, ha, if_false, ih]
    rw [List.range_succ_eq_map]
    simp [Nat.add_assoc, Nat.add_comm 1]

/-- Everything storeBytes can do: store every byte, or report the first address beyond memory and store nothing. -/
theorem storeBytes_cases (m : Memory) (base : Nat) (bs : List Byte) :
    ((bs.length = 0 ∨ base + bs.length ≤ 0x1000) ∧ storeBytes m base bs = .ok (m.place base bs)) ∨
    (0 < bs.length ∧ 0x1000 < base + bs.length ∧ storeBytes m base bs = .error (.memoryOutOfBounds 0x1000)) := by
  by_cases h : rangeLeavesMemory base bs.length = true
  · obtain ⟨h1, h2⟩ := rangeLeavesMemory_eq_true.1 h
    exact .inr ⟨h1, h2, by simp [storeBytes, h, firstBeyondMemory]⟩
  · have h' := rangeLeavesMemory_eq_false.1 (by simpa using h)
    refine .inl ⟨h', ?_⟩
    simp only [storeBytes, h]
    rcases h' with h0 | h1
    · have : bs = [] := List.length_eq_zero_iff.1 h0
      subst this; rfl
    · simpa using writeEach_inside h1

/-- Everything loadBytes can do: every byte in order, or the first address beyond memory. -/
theorem loadBytes_cases (m : Memory) (base n : Nat) :
    ((n = 0 ∨ base + n ≤ 0x1000) ∧
      loadBytes m base n = .ok ((List.range n).map fun k => m.read (base + k))) ∨
    (0 < n ∧ 0x1000 < base + n ∧ loadBytes m base n = .error (.memoryOutOfBounds 0x1000)) := by
  by_cases h : rangeLeavesMemory base n = true
  · obtain ⟨h1, h2⟩ := rangeLeavesMemory_eq_true.1 h
    exact .inr ⟨h1, h2, by simp [loadBytes, h, firstBeyondMemory]⟩
  · have h' := rangeLeavesMemory_eq_false.1 (by simpa using h)
    refine .inl ⟨h', ?_⟩
    simp only [loadBytes, h]
    rcases h' with h0 | h1
    · subst h0; rfl
    · simpa using readEach_inside m h1

/-- Whatever storeBytes stores keeps the canonical form. -/
theorem storeBytes_wf {m m' : Memory} {base : Nat} {bs : List Byte} (hm : m.wf = true)
    (h : storeBytes m base bs = .ok m') : m'.wf = true := by
  rcases storeBytes_cases m base bs with ⟨hb, he⟩ | ⟨_, _, he⟩
  · rw [he] at h
    cases h
    rcases hb with h0 | h1
    · have : bs = [] := List.length_eq_zero_iff.1 h0
      subst this; exact hm
    · exact Memory.wf_place h1 hm
  · rw [he] at h; cases h

theorem bootImage_wf {font : Vector Byte 80} {program : List Byte} (h : program.length ≤ 0xC00) :
    (bootImage font program).wf = true := by
  refine Memory.wf_place (by omega) (Memory.wf_place ?_ Memory.wf_nil)
  simp

end Sys2Proof.Machine
end

