-- ==== Sys2Proof/Laws/State.lean ====
section
/-! SUPPORT. One lemma per field per update of State: what each named update leaves as it was, true by rfl, and what a register
reads after it. -/

namespace Sys2Proof.Machine

/-! ### Fields that an update leaves as they were -/

section
variable (s : State)

@[simp] theorem State.setReg_pc (k : Reg) (b : Byte) : (s.setReg k b).pc = s.pc := rfl
@[simp] theorem State.setReg_idx (k : Reg) (b : Byte) : (s.setReg k b).idx = s.idx := rfl
@[simp] theorem State.setReg_stack (k : Reg) (b : Byte) : (s.setReg k b).stack = s.stack := rfl
@[simp] theorem State.setReg_sp (k : Reg) (b : Byte) : (s.setReg k b).sp = s.sp := rfl
@[simp] theorem State.setReg_dt (k : Reg) (b : Byte) : (s.setReg k b).dt = s.dt := rfl
@[simp] theorem State.setReg_st (k : Reg) (b : Byte) : (s.setReg k b).st = s.st := rfl
@[simp] theorem State.setReg_fb (k : Reg) (b : Byte) : (s.setReg k b).fb = s.fb := rfl
@[simp] theorem State.setReg_keys (k : Reg) (b : Byte) : (s.setReg k b).keys = s.keys := rfl
@[simp] theorem State.setReg_halted (k : Reg) (b : Byte) : (s.setReg k b).halted = s.halted := rfl
@[simp] theorem State.setReg_quirks (k : Reg) (b : Byte) : (s.setReg k b).quirks = s.quirks := rfl
@[simp] theorem State.setReg_fault (k : Reg) (b : Byte) : (s.setReg k b).fault = s.fault := rfl
@[simp] theorem State.setReg_result (k : Reg) (b : Byte) : (s.setReg k b).result = s.result := rfl
@[simp] theorem State.setReg_mem (k : Reg) (b : Byte) : (s.setReg k b).mem = s.mem := rfl
@[simp] theorem State.setReg_latch (k : Reg) (b : Byte) : (s.setReg k b).latch = s.latch := rfl
@[simp] theorem State.setReg_script (k : Reg) (b : Byte) : (s.setReg k b).script = s.script := rfl
@[simp] theorem State.setReg_drawn (k : Reg) (b : Byte) : (s.setReg k b).drawn = s.drawn := rfl

@[simp] theorem State.setIdx_v (n : Nat) : (s.setIdx n).v = s.v := rfl
@[simp] theorem State.setIdx_pc (n : Nat) : (s.setIdx n).pc = s.pc := rfl
@[simp] theorem State.setIdx_stack (n : Nat) : (s.setIdx n).stack = s.stack := rfl
@[simp] theorem State.setIdx_sp (n : Nat) : (s.setIdx n).sp = s.sp := rfl
@[simp] theorem State.setIdx_dt (n : Nat) : (s.setIdx n).dt = s.dt := rfl
@[simp] theorem State.setIdx_st (n : Nat) : (s.setIdx n).st = s.st := rfl
@[simp] theorem State.setIdx_fb (n : Nat) : (s.setIdx n).fb = s.fb := rfl
@[simp] theorem State.setIdx_keys (n : Nat) : (s.setIdx n).keys = s.keys := rfl
@[simp] theorem State.setIdx_halted (n : Nat) : (s.setIdx n).halted = s.halted := rfl
@[simp] theorem State.setIdx_quirks (n : Nat) : (s.setIdx n).quirks = s.quirks := rfl
@[simp] theorem State.setIdx_fault (n : Nat) : (s.setIdx n).fault = s.fault := rfl
@[simp] theorem State.setIdx_result (n : Nat) : (s.setIdx n).result = s.result := rfl
@[simp] theorem State.setIdx_mem (n : Nat) : (s.setIdx n).mem = s.mem := rfl
@[simp] theorem State.setIdx_latch (n : Nat) : (s.setIdx n).latch = s.latch := rfl
@[simp] theorem State.setIdx_script (n : Nat) : (s.setIdx n).script = s.script := rfl
@[simp] theorem State.setIdx_drawn (n : Nat) : (s.setIdx n).drawn = s.drawn := rfl
@[simp] theorem State.setIdx_reg (n : Nat) (j : Reg) : (s.setIdx n).reg j = s.reg j := rfl

@[simp] theorem State.setPc_v (t : Word) : (s.setPc t).v = s.v := rfl
@[simp] theorem State.setPc_idx (t : Word) : (s.setPc t).idx = s.idx := rfl
@[simp] theorem State.setPc_stack (t : Word) : (s.setPc t).stack = s.stack := rfl
@[simp] theorem State.setPc_sp (t : Word) : (s.setPc t).sp = s.sp := rfl
@[simp] theorem State.setPc_dt (t : Word) : (s.setPc t).dt = s.dt := rfl
@[simp] theorem State.setPc_st (t : Word) : (s.setPc t).st = s.st := rfl
@[simp] theorem State.setPc_fb (t : Word) : (s.setPc t).fb = s.fb := rfl
@[simp] theorem State.setPc_keys (t : Word) : (s.setPc t).keys = s.keys := rfl
@[simp] theorem State.setPc_halted (t : Word) : (s.setPc t).halted = s.halted := rfl
@[simp] theorem State.setPc_quirks (t : Word) : (s.setPc t).quirks = s.quirks := rfl
@[simp] theorem State.setPc_fault (t : Word) : (s.setPc t).fault = s.fault := rfl
@[simp] theorem State.setPc_result (t : Word) : (s.setPc t).result = s.result := rfl
@[simp] theorem State.setPc_mem (t : Word) : (s.setPc t).mem = s.mem := rfl
@[simp] theorem State.setPc_latch (t : Word) : (s.setPc t).latch = s.latch := rfl
@[simp] theorem State.setPc_script (t : Word) : (s.setPc t).script = s.script := rfl
@[simp] theorem State.setPc_drawn (t : Word) : (s.setPc t).drawn = s.drawn := rfl
@[simp] theorem State.setPc_reg (t : Word) (j : Reg) : (s.setPc t).reg j = s.reg j := rfl

@[simp] theorem State.setRegBlock_pc (bs : List Byte) : (s.setRegBlock bs).pc = s.pc := rfl
@[simp] theorem State.setRegBlock_idx (bs : List Byte) : (s.setRegBlock bs).idx = s.idx := rfl
@[simp] theorem State.setRegBlock_stack (bs : List Byte) : (s.setRegBlock bs).stack = s.stack := rfl
@[simp] theorem State.setRegBlock_sp (bs : List Byte) : (s.setRegBlock bs).sp = s.sp := rfl
@[simp] theorem State.setRegBlock_dt (bs : List Byte) : (s.setRegBlock bs).dt = s.dt := rfl
@[simp] theorem State.setRegBlock_st (bs : List Byte) : (s.setRegBlock bs).st = s.st := rfl
@[simp] theorem State.setRegBlock_fb (bs : List Byte) : (s.setRegBlock bs).fb = s.fb := rfl
@[simp] theorem State.setRegBlock_keys (bs : List Byte) : (s.setRegBlock bs).keys = s.keys := rfl
@[simp] theorem State.setRegBlock_halted (bs : List Byte) : (s.setRegBlock bs).halted = s.halted := rfl
@[simp] theorem State.setRegBlock_quirks (bs : List Byte) : (s.setRegBlock bs).quirks = s.quirks := rfl
@[simp] theorem State.setRegBlock_fault (bs : List Byte) : (s.setRegBlock bs).fault = s.fault := rfl
@[simp] theorem State.setRegBlock_result (bs : List Byte) : (s.setRegBlock bs).result = s.result := rfl
@[simp] theorem State.setRegBlock_mem (bs : List Byte) : (s.setRegBlock bs).mem = s.mem := rfl
@[simp] theorem State.setRegBlock_latch (bs : List Byte) : (s.setRegBlock bs).latch = s.latch := rfl
@[simp] theorem State.setRegBlock_script (bs : List Byte) : (s.setRegBlock bs).script = s.script := rfl
@[simp] theorem State.setRegBlock_drawn (bs : List Byte) : (s.setRegBlock bs).drawn = s.drawn := rfl

@[simp] theorem State.setRegWithFlag_pc (x : Reg) (a b : Byte) : (s.setRegWithFlag x a b).pc = s.pc := rfl
@[simp] theorem State.setRegWithFlag_idx (x : Reg) (a b : Byte) : (s.setRegWithFlag x a b).idx = s.idx := rfl
@[simp] theorem State.setRegWithFlag_stack (x : Reg) (a b : Byte) : (s.setRegWithFlag x a b).stack = s.stack := rfl
@[simp] theorem State.setRegWithFlag_sp (x : Reg) (a b : Byte) : (s.setRegWithFlag x a b).sp = s.sp := rfl
@[simp] theorem State.setRegWithFlag_dt (x : Reg) (a b : Byte) : (s.setRegWithFlag x a b).dt = s.dt := rfl
@[simp] theorem State.setRegWithFlag_st (x : Reg) (a b : Byte) : (s.setRegWithFlag x a b).st = s.st := rfl
@[simp] theorem State.setRegWithFlag_fb (x : Reg) (a b : Byte) : (s.setRegWithFlag x a b).fb = s.fb := rfl
@[simp] theorem State.setRegWithFlag_keys (x : Reg) (a b : Byte) : (s.setRegWithFlag x a b).keys = s.keys := rfl
@[simp] theorem State.setRegWithFlag_halted (x : Reg) (a b : Byte) : (s.setRegWithFlag x a b).halted = s.halted := rfl
@[simp] theorem State.setRegWithFlag_quirks (x : Reg) (a b : Byte) : (s.setRegWithFlag x a b).quirks = s.quirks := rfl
@[simp] theorem State.setRegWithFlag_fault (x : Reg) (a b : Byte) : (s.setRegWithFlag x a b).fault = s.fault := rfl
@[simp] theorem State.setRegWithFlag_result (x : Reg) (a b : Byte) : (s.setRegWithFlag x a b).result = s.result := rfl
@[simp] theorem State.setRegWithFlag_mem (x : Reg) (a b : Byte) : (s.setRegWithFlag x a b).mem = s.mem := rfl
@[simp] theorem State.setRegWithFlag_latch (x : Reg) (a b : Byte) : (s.setRegWithFlag x a b).latch = s.latch := rfl
@[simp] theorem State.setRegWithFlag_script (x : Reg) (a b : Byte) : (s.setRegWithFlag x a b).script = s.script := rfl
@[simp] theorem State.setRegWithFlag_drawn (x : Reg) (a b : Byte) : (s.setRegWithFlag x a b).drawn = s.drawn := rfl

@[simp] theorem State.setRegLogic_pc (x : Reg) (a : Byte) : (s.setRegLogic x a).pc = s.pc := rfl
@[simp] theorem State.setRegLogic_idx (x : Reg) (a : Byte) : (s.setRegLogic x a).idx = s.idx := rfl
@[simp] theorem State.setRegLogic_stack (x : Reg) (a : Byte) : (s.setRegLogic x a).stack = s.stack := rfl
@[simp] theorem State.setRegLogic_sp (x : Reg) (a : Byte) : (s.setRegLogic x a).sp = s.sp := rfl
@[simp] theorem State.setRegLogic_dt (x : Reg) (a : Byte) : (s.setRegLogic x a).dt = s.dt := rfl
@[simp] theorem State.setRegLogic_st (x : Reg) (a : Byte) : (s.setRegLogic x a).st = s.st := rfl
@[simp] theorem State.setRegLogic_fb (x : Reg) (a : Byte) : (s.setRegLogic x a).fb = s.fb := rfl
@[simp] theorem State.setRegLogic_keys (x : Reg) (a : Byte) : (s.setRegLogic x a).keys = s.keys := rfl
@[simp] theorem State.setRegLogic_halted (x : Reg) (a : Byte) : (s.setRegLogic x a).halted = s.halted := rfl
@[simp] theorem State.setRegLogic_quirks (x : Reg) (a : Byte) : (s.setRegLogic x a).quirks = s.quirks := rfl
@[simp] theorem State.setRegLogic_fault (x : Reg) (a : Byte) : (s.setRegLogic x a).fault = s.fault := rfl
@[simp] theorem State.setRegLogic_result (x : Reg) (a : Byte) : (s.setRegLogic x a).result = s.result := rfl
@[simp] theorem State.setRegLogic_mem (x : Reg) (a : Byte) : (s.setRegLogic x a).mem = s.mem := rfl
@[simp] theorem State.setRegLogic_latch (x : Reg) (a : Byte) : (s.setRegLogic x a).latch = s.latch := rfl
@[simp] theorem State.setRegLogic_script (x : Reg) (a : Byte) : (s.setRegLogic x a).script = s.script := rfl
@[simp] theorem State.setRegLogic_drawn (x : Reg) (a : Byte) : (s.setRegLogic x a).drawn = s.drawn := rfl

@[simp] theorem State.advanceIdx_v (x : Reg) : (s.advanceIdx x).v = s.v := rfl
@[simp] theorem State.advanceIdx_pc (x : Reg) : (s.advanceIdx x).pc = s.pc := rfl
@[simp] theorem State.advanceIdx_stack (x : Reg) : (s.advanceIdx x).stack = s.stack := rfl
@[simp] theorem State.advanceIdx_sp (x : Reg) : (s.advanceIdx x).sp = s.sp := rfl
@[simp] theorem State.advanceIdx_dt (x : Reg) : (s.advanceIdx x).dt = s.dt := rfl
@[simp] theorem State.advanceIdx_st (x : Reg) : (s.advanceIdx x).st = s.st := rfl
@[simp] theorem State.advanceIdx_fb (x : Reg) : (s.advanceIdx x).fb = s.fb := rfl
@[simp] theorem State.advanceIdx_keys (x : Reg) : (s.advanceIdx x).keys = s.keys := rfl
@[simp] theorem State.advanceIdx_halted (x : Reg) : (s.advanceIdx x).halted = s.halted := rfl
@[simp] theorem State.advanceIdx_quirks (x : Reg) : (s.advanceIdx x).quirks = s.quirks := rfl
@[simp] theorem State.advanceIdx_fault (x : Reg) : (s.advanceIdx x).fault = s.fault := rfl
@[simp] theorem State.advanceIdx_result (x : Reg) : (s.advanceIdx x).result = s.result := rfl
@[simp] theorem State.advanceIdx_mem (x : Reg) : (s.advanceIdx x).mem = s.mem := rfl
@[simp] theorem State.advanceIdx_latch (x : Reg) : (s.advanceIdx x).latch = s.latch := rfl
@[simp] theorem State.advanceIdx_script (x : Reg) : (s.advanceIdx x).script = s.script := rfl
@[simp] theorem State.advanceIdx_drawn (x : Reg) : (s.advanceIdx x).drawn = s.drawn := rfl
@[simp] theorem State.advanceIdx_reg (x : Reg) (j : Reg) : (s.advanceIdx x).reg j = s.reg j := rfl

@[simp] theorem State.skipIf_v (c : Bool) : (s.skipIf c).v = s.v := rfl
@[simp] theorem State.skipIf_idx (c : Bool) : (s.skipIf c).idx = s.idx := rfl
@[simp] theorem State.skipIf_stack (c : Bool) : (s.skipIf c).stack = s.stack := rfl
@[simp] theorem State.skipIf_sp (c : Bool) : (s.skipIf c).sp = s.sp := rfl
@[simp] theorem State.skipIf_dt (c : Bool) : (s.skipIf c).dt = s.dt := rfl
@[simp] theorem State.skipIf_st (c : Bool) : (s.skipIf c).st = s.st := rfl
@[simp] theorem State.skipIf_fb (c : Bool) : (s.skipIf c).fb = s.fb := rfl
@[simp] theorem State.skipIf_keys (c : Bool) : (s.skipIf c).keys = s.keys := rfl
@[simp] theorem State.skipIf_halted (c : Bool) : (s.skipIf c).halted = s.halted := rfl
@[simp] theorem State.skipIf_quirks (c : Bool) : (s.skipIf c).quirks = s.quirks := rfl
@[simp] theorem State.skipIf_fault (c : Bool) : (s.skipIf c).fault = s.fault := rfl
@[simp] theorem State.skipIf_result (c : Bool) : (s.skipIf c).result = s.result := rfl
@[simp] theorem State.skipIf_mem (c : Bool) : (s.skipIf c).mem = s.mem := rfl
@[simp] theorem State.skipIf_latch (c : Bool) : (s.skipIf c).latch = s.latch := rfl
@[simp] theorem State.skipIf_script (c : Bool) : (s.skipIf c).script = s.script := rfl
@[simp] theorem State.skipIf_drawn (c : Bool) : (s.skipIf c).drawn = s.drawn := rfl
@[simp] theorem State.skipIf_reg (c : Bool) (j : Reg) : (s.skipIf c).reg j = s.reg j := rfl

@[simp] theorem State.drawSprite_pc (x y : Reg) (bs : List Byte) : (s.drawSprite x y bs).pc = s.pc := rfl
@[simp] theorem State.drawSprite_idx (x y : Reg) (bs : List Byte) : (s.drawSprite x y bs).idx = s.idx := rfl
@[simp] theorem State.drawSprite_stack (x y : Reg) (bs : List Byte) : (s.drawSprite x y bs).stack = s.stack := rfl
@[simp] theorem State.drawSprite_sp (x y : Reg) (bs : List Byte) : (s.drawSprite x y bs).sp = s.sp := rfl
@[simp] theorem State.drawSprite_dt (x y : Reg) (bs : List Byte) : (s.drawSprite x y bs).dt = s.dt := rfl
@[simp] theorem State.drawSprite_st (x y : Reg) (bs : List Byte) : (s.drawSprite x y bs).st = s.st := rfl
@[simp] theorem State.drawSprite_keys (x y : Reg) (bs : List Byte) : (s.drawSprite x y bs).keys = s.keys := rfl
@[simp] theorem State.drawSprite_halted (x y : Reg) (bs : List Byte) : (s.drawSprite x y bs).halted = s.halted := rfl
@[simp] theorem State.drawSprite_quirks (x y : Reg) (bs : List Byte) : (s.drawSprite x y bs).quirks = s.quirks := rfl
@[simp] theorem State.drawSprite_fault (x y : Reg) (bs : List Byte) : (s.drawSprite x y bs).fault = s.fault := rfl
@[simp] theorem State.drawSprite_result (x y : Reg) (bs : List Byte) : (s.drawSprite x y bs).result = s.result := rfl
@[simp] theorem State.drawSprite_mem (x y : Reg) (bs : List Byte) : (s.drawSprite x y bs).mem = s.mem := rfl
@[simp] theorem State.drawSprite_latch (x y : Reg) (bs : List Byte) : (s.drawSprite x y bs).latch = s.latch := rfl
@[simp] theorem State.drawSprite_script (x y : Reg) (bs : List Byte) : (s.drawSprite x y bs).script = s.script := rfl
@[simp] theorem State.drawSprite_drawn (x y : Reg) (bs : List Byte) : (s.drawSprite x y bs).drawn = s.drawn := rfl

@[simp] theorem State.hostWrites_v (t : HostTurn) : (s.hostWrites t).v = s.v := rfl
@[simp] theorem State.hostWrites_pc (t : HostTurn) : (s.hostWrites t).pc = s.pc := rfl
@[simp] theorem State.hostWrites_idx (t : HostTurn) : (s.hostWrites t).idx = s.idx := rfl
@[simp] theorem State.hostWrites_stack (t : HostTurn) : (s.hostWrites t).stack = s.stack := rfl
@[simp] theorem State.hostWrites_sp (t : HostTurn) : (s.hostWrites t).sp = s.sp := rfl
@[simp] theorem State.hostWrites_dt (t : HostTurn) : (s.hostWrites t).dt = s.dt := rfl
@[simp] theorem State.hostWrites_st (t : HostTurn) : (s.hostWrites t).st = s.st := rfl
@[simp] theorem State.hostWrites_fb (t : HostTurn) : (s.hostWrites t).fb = s.fb := rfl
@[simp] theorem State.hostWrites_quirks (t : HostTurn) : (s.hostWrites t).quirks = s.quirks := rfl
@[simp] theorem State.hostWrites_fault (t : HostTurn) : (s.hostWrites t).fault = s.fault := rfl
@[simp] theorem State.hostWrites_result (t : HostTurn) : (s.hostWrites t).result = s.result := rfl
@[simp] theorem State.hostWrites_mem (t : HostTurn) : (s.hostWrites t).mem = s.mem := rfl
@[simp] theorem State.hostWrites_latch (t : HostTurn) : (s.hostWrites t).latch = s.latch := rfl
@[simp] theorem State.hostWrites_script (t : HostTurn) : (s.hostWrites t).script = s.script := rfl
@[simp] theorem State.hostWrites_drawn (t : HostTurn) : (s.hostWrites t).drawn = s.drawn := rfl
@[simp] theorem State.hostWrites_reg (t : HostTurn) (j : Reg) : (s.hostWrites t).reg j = s.reg j := rfl

@[simp] theorem State.tick_v (due : Bool) : (s.tick due).v = s.v := rfl
@[simp] theorem State.tick_pc (due : Bool) : (s.tick due).pc = s.pc := rfl
@[simp] theorem State.tick_idx (due : Bool) : (s.tick due).idx = s.idx := rfl
@[simp] theorem State.tick_stack (due : Bool) : (s.tick due).stack = s.stack := rfl
@[simp] theorem State.tick_sp (due : Bool) : (s.tick due).sp = s.sp := rfl
@[simp] theorem State.tick_fb (due : Bool) : (s.tick due).fb = s.fb := rfl
@[simp] theorem State.tick_keys (due : Bool) : (s.tick due).keys = s.keys := rfl
@[simp] theorem State.tick_halted (due : Bool) : (s.tick due).halted = s.halted := rfl
@[simp] theorem State.tick_quirks (due : Bool) : (s.tick due).quirks = s.quirks := rfl
@[simp] theorem State.tick_fault (due : Bool) : (s.tick due).fault = s.fault := rfl
@[simp] theorem State.tick_result (due : Bool) : (s.tick due).result = s.result := rfl
@[simp] theorem State.tick_mem (due : Bool) : (s.tick due).mem = s.mem := rfl
@[simp] theorem State.tick_latch (due : Bool) : (s.tick due).latch = s.latch := rfl
@[simp] theorem State.tick_script (due : Bool) : (s.tick due).script = s.script := rfl
@[simp] theorem State.tick_drawn (due : Bool) : (s.tick due).drawn = s.drawn := rfl
@[simp] theorem State.tick_reg (due : Bool) (j : Reg) : (s.tick due).reg j = s.reg j := rfl

@[simp] theorem State.sample_v (t : HostTurn) : (s.sample t).v = s.v := rfl
@[simp] theorem State.sample_pc (t : HostTurn) : (s.sample t).pc = s.pc := rfl
@[simp] theorem State.sample_idx (t : HostTurn) : (s.sample t).idx = s.idx := rfl
@[simp] theorem State.sample_stack (t : HostTurn) : (s.sample t).stack = s.stack := rfl
@[simp] theorem State.sample_sp (t : HostTurn) : (s.sample t).sp = s.sp := rfl
@[simp] theorem State.sample_dt (t : HostTurn) : (s.sample t).dt = s.dt := rfl
@[simp] theorem State.sample_st (t : HostTurn) : (s.sample t).st = s.st := rfl
@[simp] theorem State.sample_fb (t : HostTurn) : (s.sample t).fb = s.fb := rfl
@[simp] theorem State.sample_keys (t : HostTurn) : (s.sample t).keys = s.keys := rfl
@[simp] theorem State.sample_halted (t : HostTurn) : (s.sample t).halted = s.halted := rfl
@[simp] theorem State.sample_quirks (t : HostTurn) : (s.sample t).quirks = s.quirks := rfl
@[simp] theorem State.sample_fault (t : HostTurn) : (s.sample t).fault = s.fault := rfl
@[simp] theorem State.sample_result (t : HostTurn) : (s.sample t).result = s.result := rfl
@[simp] theorem State.sample_mem (t : HostTurn) : (s.sample t).mem = s.mem := rfl
@[simp] theorem State.sample_script (t : HostTurn) : (s.sample t).script = s.script := rfl
@[simp] theorem State.sample_drawn (t : HostTurn) : (s.sample t).drawn = s.drawn := rfl
@[simp] theorem State.sample_reg (t : HostTurn) (j : Reg) : (s.sample t).reg j = s.reg j := rfl

@[simp] theorem State.advance_v : s.advance.v = s.v := rfl
@[simp] theorem State.advance_idx : s.advance.idx = s.idx := rfl
@[simp] theorem State.advance_stack : s.advance.stack = s.stack := rfl
@[simp] theorem State.advance_sp : s.advance.sp = s.sp := rfl
@[simp] theorem State.advance_dt : s.advance.dt = s.dt := rfl
@[simp] theorem State.advance_st : s.advance.st = s.st := rfl
@[simp] theorem State.advance_fb : s.advance.fb = s.fb := rfl
@[simp] theorem State.advance_keys : s.advance.keys = s.keys := rfl
@[simp] theorem State.advance_halted : s.advance.halted = s.halted := rfl
@[simp] theorem State.advance_quirks : s.advance.quirks = s.quirks := rfl
@[simp] theorem State.advance_fault : s.advance.fault = s.fault := rfl
@[simp] theorem State.advance_result : s.advance.result = s.result := rfl
@[simp] theorem State.advance_mem : s.advance.mem = s.mem := rfl
@[simp] theorem State.advance_latch : s.advance.latch = s.latch := rfl
@[simp] theorem State.advance_script : s.advance.script = s.script := rfl
@[simp] theorem State.advance_drawn : s.advance.drawn = s.drawn := rfl
@[simp] theorem State.advance_reg (j : Reg) : s.advance.reg j = s.reg j := rfl

@[simp] theorem State.release_v : s.release.v = s.v := rfl
@[simp] theorem State.release_pc : s.release.pc = s.pc := rfl
@[simp] theorem State.release_idx : s.release.idx = s.idx := rfl
@[simp] theorem State.release_stack : s.release.stack = s.stack := rfl
@[simp] theorem State.release_sp : s.release.sp = s.sp := rfl
@[simp] theorem State.release_dt : s.release.dt = s.dt := rfl
@[simp] theorem State.release_st : s.release.st = s.st := rfl
@[simp] theorem State.release_fb : s.release.fb = s.fb := rfl
@[simp] theorem State.release_keys : s.release.keys = s.keys := rfl
@[simp] theorem State.release_halted : s.release.halted = s.halted := rfl
@[simp] theorem State.release_quirks : s.release.quirks = s.quirks := rfl
@[simp] theorem State.release_fault : s.release.fault = s.fault := rfl
@[simp] theorem State.release_result : s.release.result = s.result := rfl
@[simp] theorem State.release_mem : s.release.mem = s.mem := rfl
@[simp] theorem State.release_script : s.release.script = s.script := rfl
@[simp] theorem State.release_drawn : s.release.drawn = s.drawn := rfl
@[simp] theorem State.release_reg (j : Reg) : s.release.reg j = s.reg j := rfl

@[simp] theorem State.commit_v (d : Instr) : (State.commit d s).v = s.v := rfl
@[simp] theorem State.commit_pc (d : Instr) : (State.commit d s).pc = s.pc := rfl
@[simp] theorem State.commit_idx (d : Instr) : (State.commit d s).idx = s.idx := rfl
@[simp] theorem State.commit_stack (d : Instr) : (State.commit d s).stack = s.stack := rfl
@[simp] theorem State.commit_sp (d : Instr) : (State.commit d s).sp = s.sp := rfl
@[simp] theorem State.commit_dt (d : Instr) : (State.commit d s).dt = s.dt := rfl
@[simp] theorem State.commit_st (d : Instr) : (State.commit d s).st = s.st := rfl
@[simp] theorem State.commit_fb (d : Instr) : (State.commit d s).fb = s.fb := rfl
@[simp] theorem State.commit_keys (d : Instr) : (State.commit d s).keys = s.keys := rfl
@[simp] theorem State.commit_halted (d : Instr) : (State.commit d s).halted = s.halted := rfl
@[simp] theorem State.commit_quirks (d : Instr) : (State.commit d s).quirks = s.quirks := rfl
@[simp] theorem State.commit_fault (d : Instr) : (State.commit d s).fault = s.fault := rfl
@[simp] theorem State.commit_mem (d : Instr) : (State.commit d s).mem = s.mem := rfl
@[simp] theorem State.commit_latch (d : Instr) : (State.commit d s).latch = s.latch := rfl
@[simp] theorem State.commit_script (d : Instr) : (State.commit d s).script = s.script := rfl
@[simp] theorem State.commit_drawn (d : Instr) : (State.commit d s).drawn = s.drawn := rfl
@[simp] theorem State.commit_reg (d : Instr) (j : Reg) : (State.commit d s).reg j = s.reg j := rfl

@[simp] theorem State.turnTaken_v : s.turnTaken.v = s.v := by unfold State.turnTaken; split <;> rfl
@[simp] theorem State.turnTaken_pc : s.turnTaken.pc = s.pc := by unfold State.turnTaken; split <;> rfl
@[simp] theorem State.turnTaken_idx : s.turnTaken.idx = s.idx := by unfold State.turnTaken; split <;> rfl
@[simp] theorem State.turnTaken_stack : s.turnTaken.stack = s.stack := by unfold State.turnTaken; split <;> rfl
@[simp] theorem State.turnTaken_sp : s.turnTaken.sp = s.sp := by unfold State.turnTaken; split <;> rfl
@[simp] theorem State.turnTaken_dt : s.turnTaken.dt = s.dt := by unfold State.turnTaken; split <;> rfl
@[simp] theorem State.turnTaken_st : s.turnTaken.st = s.st := by unfold State.turnTaken; split <;> rfl
@[simp] theorem State.turnTaken_fb : s.turnTaken.fb = s.fb := by unfold State.turnTaken; split <;> rfl
@[simp] theorem State.turnTaken_keys : s.turnTaken.keys = s.keys := by unfold State.turnTaken; split <;> rfl
@[simp] theorem State.turnTaken_halted : s.turnTaken.halted = s.halted := by unfold State.turnTaken; split <;> rfl
@[simp] theorem State.turnTaken_quirks : s.turnTaken.quirks = s.quirks := by unfold State.turnTaken; split <;> rfl
@[simp] theorem State.turnTaken_fault : s.turnTaken.fault = s.fault := by unfold State.turnTaken; split <;> rfl
@[simp] theorem State.turnTaken_result : s.turnTaken.result = s.result := by unfold State.turnTaken; split <;> rfl
@[simp] theorem State.turnTaken_mem : s.turnTaken.mem = s.mem := by unfold State.turnTaken; split <;> rfl
@[simp] theorem State.turnTaken_latch : s.turnTaken.latch = s.latch := by unfold State.turnTaken; split <;> rfl

@[simp] theorem State.turnTaken_reg (j : Reg) : s.turnTaken.reg j = s.reg j := by unfold State.turnTaken; split <;> rfl

/-! ### The field that an update writes -/

@[simp] theorem State.setIdx_idx (n : Nat) : (s.setIdx n).idx = BitVec.ofNat 12 n := rfl
@[simp] theorem State.setPc_pc (t : Word) : (s.setPc t).pc = t := rfl
@[simp] theorem State.advance_pc : s.advance.pc = s.pc + 2#16 := rfl
@[simp] theorem State.skipIf_pc (c : Bool) : (s.skipIf c).pc = if c then s.pc + 2#16 else s.pc := rfl
@[simp] theorem State.release_latch : s.release.latch = Latch.idle := rfl
@[simp] theorem State.sample_latch (t : HostTurn) : (s.sample t).latch = ⟨s.pc, t.keyEvent, t.randByte⟩ := rfl
@[simp] theorem State.tick_dt (due : Bool) : (s.tick due).dt = if due then tickTimer s.dt else s.dt := rfl
@[simp] theorem State.tick_st (due : Bool) : (s.tick due).st = if due then tickTimer s.st else s.st := rfl
@[simp] theorem State.hostWrites_keys (t : HostTurn) : (s.hostWrites t).keys = writeKeys s.keys t.keyWrites := rfl
@[simp] theorem State.hostWrites_halted (t : HostTurn) : (s.hostWrites t).halted = t.haltedWrite.getD s.halted := rfl
@[simp] theorem State.advanceIdx_idx (x : Reg) : (s.advanceIdx x).idx =
    BitVec.ofNat 12 (if s.quirks.memory then s.idx.toNat + blockLength x else s.idx.toNat) := rfl

/-! ### Registers -/

theorem State.reg_setReg (k j : Reg) (b : Byte) : (s.setReg k b).reg j = if j = k then b else s.reg j := by
  unfold State.setReg State.reg
  by_cases h : j = k
  · subst h; simp
  · have h' : k.toNat ≠ j.toNat := fun e => h (BitVec.eq_of_toNat_eq e).symm
    simp [h, Vector.getElem_set_ne _ _ h']

@[simp] theorem State.reg_setReg_same (k : Reg) (b : Byte) : (s.setReg k b).reg k = b := by
  simp [State.reg_setReg]

@[simp] theorem State.reg_setReg_other {k j : Reg} (b : Byte) (h : j ≠ k) : (s.setReg k b).reg j = s.reg j := by
  simp [State.reg_setReg, h]

/-- The flag write comes last and wins (R703). -/
theorem State.reg_setRegWithFlag (x j : Reg) (a f : Byte) :
    (s.setRegWithFlag x a f).reg j = if j = Reg.vf then f else if j = x then a else s.reg j := by
  unfold State.setRegWithFlag
  rw [State.reg_setReg, State.reg_setReg]

theorem State.reg_setRegLogic (x j : Reg) (a : Byte) :
    (s.setRegLogic x a).reg j =
      if s.quirks.vfReset = true ∧ j = Reg.vf then 0#8 else if j = x then a else s.reg j := by
  cases h : s.quirks.vfReset
  · have : (s.setRegLogic x a) = s.setReg x a := by simp [State.setRegLogic, State.setReg, h]
    simp [this, State.reg_setReg]
  · have : (s.setRegLogic x a) = s.setRegWithFlag x a 0#8 := by
      simp [State.setRegLogic, State.setRegWithFlag, State.setReg, h]
    simp [this, State.reg_setRegWithFlag]

theorem State.reg_setRegBlock (bs : List Byte) (j : Reg) :
    (s.setRegBlock bs).reg j = (bs[j.toNat]?).getD (s.reg j) := by
  simp [State.setRegBlock, State.reg]

/-- The block V0..=Vx has x+1 bytes. -/
@[simp] theorem State.regBlock_length (x : Reg) : (s.regBlock x).length = x.toNat + 1 := by
  have := x.isLt
  simp [State.regBlock, blockLength]; omega

theorem State.regBlock_getElem (x k : Reg) (h : k.toNat ≤ x.toNat) :
    (s.regBlock x)[k.toNat]? = some (s.reg k) := by
  have hk := k.isLt
  have : k.toNat < blockLength x := by unfold blockLength; omega
  simp [State.regBlock, State.reg, this]

end

@[simp] theorem decimalDigits_length (b : Byte) : (decimalDigits b).length = 3 := rfl

end Sys2Proof.Machine
end

