-- ==== Sys2Proof/Laws/Ops.lean ====
section
/-! SUPPORT. For each shared operation, everything it can do, said once: raising, the call stack, key numbers, pixels. -/

namespace Sys2Proof.Machine

/-! ### Frames -/

theorem ChangesOnly.refl (ps : List Part) (s : State) : ChangesOnly ps s s := by
  intro p _
  cases p <;> simp [Unchanged]

/-! ### Raising (R1110) -/

/-- A raised error records itself and its address, and changes nothing else. -/
theorem raise_raises (c : ErrorCause) (s : State) : Raises (raise c s) c s := by
  refine ⟨_, rfl, rfl, rfl, ?_⟩
  intro p hp
  cases p <;> simp [Unchanged, State.reg] at hp ⊢

/-- Everything orRaise can do. -/
theorem orRaise_cases {α : Type} (r : Except ErrorCause α) (s : State) (k : α → State) :
    (∃ a, r = .ok a ∧ orRaise r s k = .next (k a)) ∨ (∃ c, r = .error c ∧ orRaise r s k = raise c s) := by
  cases r with
  | ok a => exact .inl ⟨a, rfl, rfl⟩
  | error c => exact .inr ⟨c, rfl, rfl⟩

/-! ### The call stack (R115, R116) -/

/-- Everything a push can do. -/
theorem State.push_cases (s : State) (w : Word) :
    (∃ t, s.sp.val < 16 ∧ s.push w = .ok t ∧ t.sp.val = s.sp.val + 1 ∧
      (∀ k : Fin 16, t.stack[k.val] = if k.val = s.sp.val then w else s.stack[k.val]) ∧
      t = { s with stack := t.stack, sp := t.sp }) ∨
    (s.sp.val = 16 ∧ s.push w = .error .stackOverflow) := by
  by_cases h : s.sp.val < 16
  · refine .inl ⟨_, h, by simp only [State.push, h, dif_pos]; rfl, rfl, ?_, rfl⟩
    intro k
    by_cases hk : k.val = s.sp.val
    · simp [hk]
    · have hk' : s.sp.val ≠ k.val := Ne.symm hk
      simp [hk, Vector.getElem_set_ne _ _ hk']
  · refine .inr ⟨by have := s.sp.isLt; omega, ?_⟩
    simp only [State.push, h, dif_neg, not_false_iff]

/-- Everything a pop can do. -/
theorem State.popToPc_cases (s : State) :
    (∃ (_ : 0 < s.sp.val) (hk : s.sp.val - 1 < 16) (t : State), s.popToPc = .ok t ∧ t.sp.val = s.sp.val - 1 ∧
      t.pc = s.stack[s.sp.val - 1]'hk ∧ t = { s with sp := t.sp, pc := t.pc }) ∨
    (s.sp.val = 0 ∧ s.popToPc = .error .stackUnderflow) := by
  by_cases h : 0 < s.sp.val
  · have hk : s.sp.val - 1 < 16 := by have := s.sp.isLt; omega
    exact .inl ⟨h, hk, _, by simp only [State.popToPc, h, dif_pos]; rfl, rfl, rfl, rfl⟩
  · refine .inr ⟨by omega, ?_⟩
    simp only [State.popToPc, h, dif_neg, not_false_iff]

/-! ### Key numbers (R610) -/

/-- Everything reading a key flag by number can do. -/
theorem State.keyNumbered_cases (s : State) (b : Byte) :
    (∃ h : b.toNat < 16, s.keyNumbered b = .ok (s.keys[b.toNat]'h)) ∨
    (0xF < b.toNat ∧ s.keyNumbered b = .error (.invalidKey b)) := by
  by_cases h : b.toNat < 16
  · exact .inl ⟨h, by simp only [State.keyNumbered, h, dif_pos]⟩
  · refine .inr ⟨by omega, ?_⟩
    simp only [State.keyNumbered, h, dif_neg, not_false_iff]

/-! ### Pixels (R145) -/

@[simp] theorem FrameBuffer.pixel_blank (x y : Nat) : FrameBuffer.blank.pixel x y = false := by
  unfold FrameBuffer.pixel FrameBuffer.blank
  split <;> simp

/-- A toggled pixel inside the frame changes; no other pixel does. -/
theorem FrameBuffer.pixel_toggle (fb : FrameBuffer) {px py : Nat} (h : px < 64 ∧ py < 32) (x y : Nat) :
    (fb.toggle px py).pixel x y = if x = px ∧ y = py then !fb.pixel px py else fb.pixel x y := by
  unfold FrameBuffer.toggle FrameBuffer.pixel
  simp only [h, and_self, dif_pos]
  by_cases hxy : x < 64 ∧ y < 32
  · simp only [hxy, and_self, dif_pos]
    by_cases hy : y = py
    · subst hy
      by_cases hx : x = px
      · subst hx; simp
      · have hx' : px ≠ x := Ne.symm hx
        simp [hx, Vector.getElem_set_ne _ _ hx']
    · have hy' : py ≠ y := Ne.symm hy
      simp [hy, Vector.getElem_set_ne _ _ hy']
  · have : ¬ (x = px ∧ y = py) := by rintro ⟨rfl, rfl⟩; exact hxy h
    simp [hxy, this]

/-- One set sprite bit: inside the frame it toggles its pixel and notes an erasure; outside nothing happens (R911). -/
theorem Blit.plot_cases (a : Blit) (px py : Nat) :
    (px < 64 ∧ py < 32 ∧ (a.plot px py).erased = (a.erased || a.fb.pixel px py) ∧
      ∀ x y, (a.plot px py).fb.pixel x y = if x = px ∧ y = py then !a.fb.pixel px py else a.fb.pixel x y) ∨
    (¬ (px < 64 ∧ py < 32) ∧ a.plot px py = a) := by
  by_cases h : px < 64 ∧ py < 32
  · refine .inl ⟨h.1, h.2, by simp [Blit.plot, h], fun x y => ?_⟩
    simp only [Blit.plot, h, and_self, if_true]
    exact FrameBuffer.pixel_toggle a.fb h x y
  · exact .inr ⟨h, by simp [Blit.plot, h]⟩

end Sys2Proof.Machine
end

