-- ==== Sys2Proof/Laws/PerInstr.lean ====
section
/-! SUPPORT. Statements made per instruction (LAWS.json): EncodeRow, an instruction's word selects the instruction's own row of the
opcode table (R310). One lemma per constructor of Instr. -/

namespace Sys2Proof

/-- A word in row k of the table selects that row if it agrees under the row's mask. -/
theorem row_selects {r : OpcodeRow} {m : String} {w : Word} (hm : r.mnemonic = m) (hr : r ∈ opcodeTable)
    (hw : w &&& r.mask = r.pattern) : ∃ q ∈ opcodeTable, q.mnemonic = m ∧ q.selects w = true :=
  ⟨r, hr, hm, by simp [OpcodeRow.selects, hw]⟩

theorem wordA_under (h : Nibble) (nnn : Addr) : wordA h nnn &&& 0xF000#16 = wordA h 0#12 := by
  rw [and_F000, fieldH_wordA]

theorem wordXK_under (h : Nibble) (x : Reg) (kk : Byte) : wordXK h x kk &&& 0xF000#16 = wordA h 0#12 := by
  rw [and_F000, fieldH_wordXK]

theorem wordXYN_under (h : Nibble) (x y : Reg) (n : Nibble) : wordXYN h x y n &&& 0xF000#16 = wordA h 0#12 := by
  rw [and_F000, fieldH_wordXYN]

theorem wordXYN_underN (h : Nibble) (x y : Reg) (n : Nibble) :
    wordXYN h x y n &&& 0xF00F#16 = wordXYN h 0#4 0#4 n := by
  rw [and_F00F, fieldH_wordXYN, fieldN_wordXYN]

theorem wordXK_underKK (h : Nibble) (x : Reg) (kk : Byte) : wordXK h x kk &&& 0xF0FF#16 = wordXK h 0#4 kk := by
  rw [and_F0FF, fieldH_wordXK, fieldKK_wordXK]

/-- The word of an instruction selects the row of its mnemonic. -/
def Laws.EncodeRow.Statement (i : Instr) : Prop :=
  ∃ r ∈ opcodeTable, r.mnemonic = i.mnemonic ∧ r.selects (encode i) = true

theorem Laws.EncodeRow.cls : Laws.EncodeRow.Statement (.cls) :=
  row_selects (r := ⟨"CLS", 0x00E0#16, 0xFFFF#16⟩) rfl (by decide) (by decide)

theorem Laws.EncodeRow.ret : Laws.EncodeRow.Statement (.ret) :=
  row_selects (r := ⟨"RET", 0x00EE#16, 0xFFFF#16⟩) rfl (by decide) (by decide)

theorem Laws.EncodeRow.jp (nnn : Addr) : Laws.EncodeRow.Statement (.jp nnn) :=
  row_selects (r := ⟨"JP", 0x1000#16, 0xF000#16⟩) rfl (by decide) (wordA_under 0x1#4 nnn)

theorem Laws.EncodeRow.call (nnn : Addr) : Laws.EncodeRow.Statement (.call nnn) :=
  row_selects (r := ⟨"CALL", 0x2000#16, 0xF000#16⟩) rfl (by decide) (wordA_under 0x2#4 nnn)

theorem Laws.EncodeRow.seq (x : Reg) (kk : Byte) : Laws.EncodeRow.Statement (.seq x kk) :=
  row_selects (r := ⟨"SEQ", 0x3000#16, 0xF000#16⟩) rfl (by decide) (wordXK_under 0x3#4 x kk)

theorem Laws.EncodeRow.snelit (x : Reg) (kk : Byte) : Laws.EncodeRow.Statement (.snelit x kk) :=
  row_selects (r := ⟨"SNELIT", 0x4000#16, 0xF000#16⟩) rfl (by decide) (wordXK_under 0x4#4 x kk)

theorem Laws.EncodeRow.se (x : Reg) (y : Reg) : Laws.EncodeRow.Statement (.se x y) :=
  row_selects (r := ⟨"SE", 0x5000#16, 0xF000#16⟩) rfl (by decide) (wordXYN_under 0x5#4 x y 0x0#4)

theorem Laws.EncodeRow.ldl (x : Reg) (kk : Byte) : Laws.EncodeRow.Statement (.ldl x kk) :=
  row_selects (r := ⟨"LDL", 0x6000#16, 0xF000#16⟩) rfl (by decide) (wordXK_under 0x6#4 x kk)

theorem Laws.EncodeRow.addl (x : Reg) (kk : Byte) : Laws.EncodeRow.Statement (.addl x kk) :=
  row_selects (r := ⟨"ADDL", 0x7000#16, 0xF000#16⟩) rfl (by decide) (wordXK_under 0x7#4 x kk)

theorem Laws.EncodeRow.ld (x : Reg) (y : Reg) : Laws.EncodeRow.Statement (.ld x y) :=
  row_selects (r := ⟨"LD", 0x8000#16, 0xF00F#16⟩) rfl (by decide) (wordXYN_underN 0x8#4 x y 0x0#4)

theorem Laws.EncodeRow.or (x : Reg) (y : Reg) : Laws.EncodeRow.Statement (.or x y) :=
  row_selects (r := ⟨"OR", 0x8001#16, 0xF00F#16⟩) rfl (by decide) (wordXYN_underN 0x8#4 x y 0x1#4)

theorem Laws.EncodeRow.and (x : Reg) (y : Reg) : Laws.EncodeRow.Statement (.and x y) :=
  row_selects (r := ⟨"AND", 0x8002#16, 0xF00F#16⟩) rfl (by decide) (wordXYN_underN 0x8#4 x y 0x2#4)

theorem Laws.EncodeRow.xor (x : Reg) (y : Reg) : Laws.EncodeRow.Statement (.xor x y) :=
  row_selects (r := ⟨"XOR", 0x8003#16, 0xF00F#16⟩) rfl (by decide) (wordXYN_underN 0x8#4 x y 0x3#4)

theorem Laws.EncodeRow.addc (x : Reg) (y : Reg) : Laws.EncodeRow.Statement (.addc x y) :=
  row_selects (r := ⟨"ADDC", 0x8004#16, 0xF00F#16⟩) rfl (by decide) (wordXYN_underN 0x8#4 x y 0x4#4)

theorem Laws.EncodeRow.subc (x : Reg) (y : Reg) : Laws.EncodeRow.Statement (.subc x y) :=
  row_selects (r := ⟨"SUBC", 0x8005#16, 0xF00F#16⟩) rfl (by decide) (wordXYN_underN 0x8#4 x y 0x5#4)

theorem Laws.EncodeRow.shrc (x : Reg) (y : Reg) : Laws.EncodeRow.Statement (.shrc x y) :=
  row_selects (r := ⟨"SHRC", 0x8006#16, 0xF00F#16⟩) rfl (by decide) (wordXYN_underN 0x8#4 x y 0x6#4)

theorem Laws.EncodeRow.subn (x : Reg) (y : Reg) : Laws.EncodeRow.Statement (.subn x y) :=
  row_selects (r := ⟨"SUBN", 0x8007#16, 0xF00F#16⟩) rfl (by decide) (wordXYN_underN 0x8#4 x y 0x7#4)

theorem Laws.EncodeRow.shlc (x : Reg) (y : Reg) : Laws.EncodeRow.Statement (.shlc x y) :=
  row_selects (r := ⟨"SHLC", 0x800E#16, 0xF00F#16⟩) rfl (by decide) (wordXYN_underN 0x8#4 x y 0xE#4)

theorem Laws.EncodeRow.sne (x : Reg) (y : Reg) : Laws.EncodeRow.Statement (.sne x y) :=
  row_selects (r := ⟨"SNE", 0x9000#16, 0xF000#16⟩) rfl (by decide) (wordXYN_under 0x9#4 x y 0x0#4)

theorem Laws.EncodeRow.ldi (nnn : Addr) : Laws.EncodeRow.Statement (.ldi nnn) :=
  row_selects (r := ⟨"LDI", 0xA000#16, 0xF000#16⟩) rfl (by decide) (wordA_under 0xA#4 nnn)

theorem Laws.EncodeRow.jpl (nnn : Addr) : Laws.EncodeRow.Statement (.jpl nnn) :=
  row_selects (r := ⟨"JPL", 0xB000#16, 0xF000#16⟩) rfl (by decide) (wordA_under 0xB#4 nnn)

theorem Laws.EncodeRow.rnd (x : Reg) (kk : Byte) : Laws.EncodeRow.Statement (.rnd x kk) :=
  row_selects (r := ⟨"RND", 0xC000#16, 0xF000#16⟩) rfl (by decide) (wordXK_under 0xC#4 x kk)

theorem Laws.EncodeRow.drw (x : Reg) (y : Reg) (n : Nibble) : Laws.EncodeRow.Statement (.drw x y n) :=
  row_selects (r := ⟨"DRW", 0xD000#16, 0xF000#16⟩) rfl (by decide) (wordXYN_under 0xD#4 x y n)

theorem Laws.EncodeRow.skp (x : Reg) : Laws.EncodeRow.Statement (.skp x) :=
  row_selects (r := ⟨"SKP", 0xE09E#16, 0xF0FF#16⟩) rfl (by decide) (wordXK_underKK 0xE#4 x 0x9E#8)

theorem Laws.EncodeRow.sknp (x : Reg) : Laws.EncodeRow.Statement (.sknp x) :=
  row_selects (r := ⟨"SKNP", 0xE0A1#16, 0xF0FF#16⟩) rfl (by decide) (wordXK_underKK 0xE#4 x 0xA1#8)

theorem Laws.EncodeRow.movdt (x : Reg) : Laws.EncodeRow.Statement (.movdt x) :=
  row_selects (r := ⟨"MOVDT", 0xF007#16, 0xF0FF#16⟩) rfl (by decide) (wordXK_underKK 0xF#4 x 0x07#8)

theorem Laws.EncodeRow.ldkb (x : Reg) : Laws.EncodeRow.Statement (.ldkb x) :=
  row_selects (r := ⟨"LDKB", 0xF00A#16, 0xF0FF#16⟩) rfl (by decide) (wordXK_underKK 0xF#4 x 0x0A#8)

theorem Laws.EncodeRow.lddt (x : Reg) : Laws.EncodeRow.Statement (.lddt x) :=
  row_selects (r := ⟨"LDDT", 0xF015#16, 0xF0FF#16⟩) rfl (by decide) (wordXK_underKK 0xF#4 x 0x15#8)

theorem Laws.EncodeRow.ldst (x : Reg) : Laws.EncodeRow.Statement (.ldst x) :=
  row_selects (r := ⟨"LDST", 0xF018#16, 0xF0FF#16⟩) rfl (by decide) (wordXK_underKK 0xF#4 x 0x18#8)

theorem Laws.EncodeRow.addi (x : Reg) : Laws.EncodeRow.Statement (.addi x) :=
  row_selects (r := ⟨"ADDI", 0xF01E#16, 0xF0FF#16⟩) rfl (by decide) (wordXK_underKK 0xF#4 x 0x1E#8)

theorem Laws.EncodeRow.ldspr (x : Reg) : Laws.EncodeRow.Statement (.ldspr x) :=
  row_selects (r := ⟨"LDSPR", 0xF029#16, 0xF0FF#16⟩) rfl (by decide) (wordXK_underKK 0xF#4 x 0x29#8)

theorem Laws.EncodeRow.ldbcd (x : Reg) : Laws.EncodeRow.Statement (.ldbcd x) :=
  row_selects (r := ⟨"LDBCD", 0xF033#16, 0xF0FF#16⟩) rfl (by decide) (wordXK_underKK 0xF#4 x 0x33#8)

theorem Laws.EncodeRow.pushreg (x : Reg) : Laws.EncodeRow.Statement (.pushreg x) :=
  row_selects (r := ⟨"PUSHREG", 0xF055#16, 0xF0FF#16⟩) rfl (by decide) (wordXK_underKK 0xF#4 x 0x55#8)

theorem Laws.EncodeRow.popreg (x : Reg) : Laws.EncodeRow.Statement (.popreg x) :=
  row_selects (r := ⟨"POPREG", 0xF065#16, 0xF0FF#16⟩) rfl (by decide) (wordXK_underKK 0xF#4 x 0x65#8)

end Sys2Proof
end

