-- ==== Sys2Proof/Laws/Step.lean ====
section
/-! SUPPORT. What one step can do, said once: no step of a faulted core, a fetch error, a decode error, or the execute phase of the
decoded instruction. -/

namespace Sys2Proof.Machine

/-- The state in which a step fetches: the host's turn taken and its writes made, the timers ticked, the inputs and
pc_instr sampled (R400 phase (a), R404, R409). -/
def State.atFetch (s : State) : State := (s.atStrobe.tick s.nextTurn.tickDue).sample s.nextTurn

@[simp] theorem State.atFetch_pc (s : State) : s.atFetch.pc = s.pc := by simp [State.atFetch, State.atStrobe]

@[simp] theorem State.atFetch_mem (s : State) : s.atFetch.mem = s.mem := by simp [State.atFetch, State.atStrobe]

@[simp] theorem State.atFetch_fault (s : State) : s.atFetch.fault = s.fault := by simp [State.atFetch, State.atStrobe]

@[simp] theorem State.atFetch_fetchWord (s : State) : s.atFetch.fetchWord = s.fetchWord := by
  simp [State.fetchWord]

@[simp] theorem State.atFetch_reg (s : State) (k : Reg) : s.atFetch.reg k = s.reg k := by
  have : s.atFetch.v = s.v := by simp [State.atFetch, State.atStrobe]
  simp [State.reg, this]

@[simp] theorem State.atFetch_idx (s : State) : s.atFetch.idx = s.idx := by simp [State.atFetch, State.atStrobe]

@[simp] theorem State.atFetch_stack (s : State) : s.atFetch.stack = s.stack := by simp [State.atFetch, State.atStrobe]

@[simp] theorem State.atFetch_sp (s : State) : s.atFetch.sp = s.sp := by simp [State.atFetch, State.atStrobe]

@[simp] theorem State.atFetch_fb (s : State) : s.atFetch.fb = s.fb := by simp [State.atFetch, State.atStrobe]

@[simp] theorem State.atFetch_quirks (s : State) : s.atFetch.quirks = s.quirks := by
  simp [State.atFetch, State.atStrobe]

@[simp] theorem State.atFetch_result (s : State) : s.atFetch.result = s.result := by
  simp [State.atFetch, State.atStrobe]

/-- What the step has sampled when it fetches (R404, R409). -/
@[simp] theorem State.atFetch_latch (s : State) :
    s.atFetch.latch = ⟨s.pc, s.nextTurn.keyEvent, s.nextTurn.randByte⟩ := by
  simp [State.atFetch, State.atStrobe, State.sample]

/-- The host's key writes have been made (R160). -/
@[simp] theorem State.atFetch_keys (s : State) : s.atFetch.keys = writeKeys s.keys s.nextTurn.keyWrites := by
  simp [State.atFetch, State.atStrobe, State.hostWrites]

/-- The host's write of `halted` has been made (R125, R160). -/
@[simp] theorem State.atFetch_halted (s : State) : s.atFetch.halted = s.nextTurn.haltedWrite.getD s.halted := by
  simp [State.atFetch, State.atStrobe, State.hostWrites]

/-- The turn taken is the script's head, if there is one. -/
@[simp] theorem State.atFetch_script (s : State) : s.atFetch.script = s.script.tail := by
  cases h : s.script <;>
    simp [State.atFetch, State.atStrobe, State.turnTaken, State.hostWrites, State.tick, State.sample, h]

/-- A turn that no script schedules is drawn. -/
theorem State.atFetch_drawn (s : State) : s.atFetch.drawn = if s.script = [] then s.drawn + 1 else s.drawn := by
  cases h : s.script <;>
    simp [State.atFetch, State.atStrobe, State.turnTaken, State.hostWrites, State.tick, State.sample, h]

/-- A tick takes one from a timer, floor at zero (R402). -/
theorem tickTimer_toNat (b : Byte) : (tickTimer b).toNat = b.toNat - 1 := by
  unfold tickTimer
  split
  · have := b.isLt
    simp [BitVec.toNat_sub]
    omega
  · omega

/-- DT when the step fetches (R402). -/
theorem State.atFetch_dt_toNat (s : State) :
    s.atFetch.dt.toNat = s.dt.toNat - (if s.nextTurn.tickDue = true then 1 else 0) := by
  have h : s.atStrobe.dt = s.dt := by simp [State.atStrobe]
  cases hd : s.nextTurn.tickDue <;> simp [State.atFetch, State.sample, State.tick, hd, h, tickTimer_toNat]

/-- ST when the step fetches (R402). -/
theorem State.atFetch_st_toNat (s : State) :
    s.atFetch.st.toNat = s.st.toNat - (if s.nextTurn.tickDue = true then 1 else 0) := by
  have h : s.atStrobe.st = s.st := by simp [State.atStrobe]
  cases hd : s.nextTurn.tickDue <;> simp [State.atFetch, State.sample, State.tick, hd, h, tickTimer_toNat]

/-- A faulted core has no step (R401). -/
theorem step_faulted {s : State} {e : ErrorRecord} (h : s.fault = some e) : step s = .fault (.coreFaulted e) := by
  simp [step, h]

/-- Everything the step of a core that is not faulted can do. -/
theorem step_cases {s : State} (h : s.fault = none) :
    (0xFFE < s.pc.toNat ∧
      step s = mapNext State.release (raise (.fetchOutOfBounds s.pc) s.atFetch)) ∨
    (s.pc.toNat ≤ 0xFFE ∧ ∃ e, decode s.fetchWord = .error e ∧
      step s = mapNext State.release (raise (decodeCause e) s.atFetch.advance)) ∨
    (s.pc.toNat ≤ 0xFFE ∧ ∃ d, decode s.fetchWord = .ok d ∧
      step s = mapNext State.release (mapNext (State.commit d) (exec d s.atFetch.advance))) := by
  have hs : step s = mapNext State.release (if s.atFetch.canFetch then runFetched s.atFetch
      else raise (.fetchOutOfBounds s.atFetch.pc) s.atFetch) := by
    simp only [step, h]; rfl
  by_cases hp : s.pc.toNat ≤ 0xFFE
  · have hc : s.atFetch.canFetch = true := by simp [State.canFetch, hp]
    rw [hc, if_pos rfl] at hs
    cases hd : decode s.fetchWord with
    | error e =>
      refine .inr (.inl ⟨hp, e, rfl, ?_⟩)
      rw [hs, runFetched, State.atFetch_fetchWord, hd]
    | ok d =>
      refine .inr (.inr ⟨hp, d, rfl, ?_⟩)
      rw [hs, runFetched, State.atFetch_fetchWord, hd]
  · have hc : s.atFetch.canFetch = false := by simp [State.canFetch, hp]
    refine .inl ⟨by omega, ?_⟩
    rw [hs, hc, State.atFetch_pc]
    rfl

end Sys2Proof.Machine
end

