-- ==== Sys2Proof/Machine/Assembler.lean ====
section
/-! DEFINITION. The assembler syntax (R314, R315 of 30_encoding.md): the text of an instruction, and a list of lines assembled to
bytes. The core does not read it; it is the spec's own notation (D35; notes/assumptions/16.md). -/

namespace Sys2Proof.Machine

/-! ### The text of an instruction -/

/-- One hexadecimal digit. -/
def hexDigit (n : Nibble) : String :=
  (["0", "1", "2", "3", "4", "5", "6", "7", "8", "9", "A", "B", "C", "D", "E", "F"]).getD n.toNat "0"

/-- A register, `V0`..`VF`. -/
def regText (x : Reg) : String := "V" ++ hexDigit x

/-- A literal, in hex with `0x`. -/
def byteText (b : Byte) : String := "0x" ++ hexDigit (b.extractLsb' 4 4) ++ hexDigit (b.extractLsb' 0 4)

/-- An address, in hex with `0x`. -/
def addrText (a : Addr) : String :=
  "0x" ++ hexDigit (a.extractLsb' 8 4) ++ hexDigit (a.extractLsb' 4 4) ++ hexDigit (a.extractLsb' 0 4)

/-- A DRW height, in decimal 0..15. -/
def heightText (n : Nibble) : String :=
  (["0", "1", "2", "3", "4", "5", "6", "7", "8", "9", "10", "11", "12", "13", "14", "15"]).getD n.toNat "0"

/-- The operands in the order of R310's operands column. -/
def operandTexts : Instr → List String
  | .cls => []
  | .ret => []
  | .jp nnn => [addrText nnn]
  | .call nnn => [addrText nnn]
  | .seq x kk => [regText x, byteText kk]
  | .snelit x kk => [regText x, byteText kk]
  | .se x y => [regText x, regText y]
  | .ldl x kk => [regText x, byteText kk]
  | .addl x kk => [regText x, byteText kk]
  | .ld x y => [regText x, regText y]
  | .or x y => [regText x, regText y]
  | .and x y => [regText x, regText y]
  | .xor x y => [regText x, regText y]
  | .addc x y => [regText x, regText y]
  | .subc x y => [regText x, regText y]
  | .shrc x y => [regText x, regText y]
  | .subn x y => [regText x, regText y]
  | .shlc x y => [regText x, regText y]
  | .sne x y => [regText x, regText y]
  | .ldi nnn => [addrText nnn]
  | .jpl nnn => [addrText nnn]
  | .rnd x kk => [regText x, byteText kk]
  | .drw x y n => [regText x, regText y, heightText n]
  | .skp x => [regText x]
  | .sknp x => [regText x]
  | .movdt x => [regText x]
  | .ldkb x => [regText x]
  | .lddt x => [regText x]
  | .ldst x => [regText x]
  | .addi x => [regText x]
  | .ldspr x => [regText x]
  | .ldbcd x => [regText x]
  | .pushreg x => [regText x]
  | .popreg x => [regText x]

/-- An instruction as R314 writes it: the mnemonic, then its operands, comma-separated. -/
def asmText (i : Instr) : String :=
  match operandTexts i with
  | [] => i.mnemonic
  | ops => i.mnemonic ++ " " ++ String.intercalate ", " ops

/-! ### Lines assembled to bytes -/

/-- One line: an instruction, `DW`, `DB`, a label, or an instruction whose address operand is a label. -/
inductive AsmLine where
  | op (i : Instr)
  | dw (w : Word)
  | db (b : Byte)
  | label (name : String)
  | opAt (i : Addr → Instr) (name : String)

/-- How many bytes a line takes. -/
def AsmLine.size : AsmLine → Nat
  | .op _ => 2
  | .dw _ => 2
  | .db _ => 1
  | .label _ => 0
  | .opAt _ _ => 2

/-- The address each label names, for lines placed from an address on. -/
def labelAddresses : Nat → List AsmLine → List (String × Nat)
  | _, [] => []
  | a, .label name :: ls => (name, a) :: labelAddresses a ls
  | a, l :: ls => labelAddresses (a + l.size) ls

/-- The bytes of one line, high byte of a word first; none where a label is not defined. A label stands for its 12-bit
address. -/
def AsmLine.bytes (env : List (String × Nat)) : AsmLine → Option (List Byte)
  | .op i => some (wordBytes (encode i))
  | .dw w => some (wordBytes w)
  | .db b => some [b]
  | .label _ => some []
  | .opAt i name => (env.lookup name).map fun a => wordBytes (encode (i (BitVec.ofNat 12 a)))

/-- The bytes of a program placed from an address on. -/
def assemble (base : Nat) (ls : List AsmLine) : Option (List Byte) :=
  (ls.mapM (AsmLine.bytes (labelAddresses base ls))).map List.flatten

end Sys2Proof.Machine
end

