-- ==== Sys2Proof/Tests/Slice0.lean ====
section
/-! SUPPORT. The model's own tests: what WellFormed refuses, every constructor's word, one step per vector of
95_test_vectors.md (each theorem names its vectors; the expected values are that file's), and a witness for the
hypotheses of each obligation. -/

namespace Sys2Proof.Machine

-- One theorem at a time: each is checked by the kernel as it is read.
set_option Elab.async false

/-! ### WellFormed refuses ill-formed terms -/

/-- A word outside every row: 0000, 8008, E09F, F0FF (DC1, DC4, DC6, DC8). -/
theorem test_wellformed_refuses_illegal_words :
    legalWord 0x0000#16 = false ∧ legalWord 0x8008#16 = false ∧ legalWord 0xE09F#16 = false ∧
    legalWord 0xF0FF#16 = false ∧ legalWord 0x8007#16 = true := by decide +kernel

/-- A row that fixes a bit its mask does not examine. -/
theorem test_wellformed_refuses_unmasked_bit :
    OpcodeRow.wellFormed ⟨"SE", 0x5001#16, 0xF000#16⟩ = false ∧ opcodeTable.all (·.wellFormed) = true := by
  decide +kernel

/-- Two rows that one word could select. -/
theorem test_wellformed_refuses_overlap :
    OpcodeRow.disjoint ⟨"LD", 0x8000#16, 0xF00F#16⟩ ⟨"ALU", 0x8000#16, 0xF000#16⟩ = false ∧
    opcodeTable.length = 34 ∧ opcodeTable.Pairwise (fun r q => r.disjoint q = true) := by decide +kernel

/-- A program of 0xC01 bytes is refused, one of 0xC00 is not (R1201). -/
theorem test_wellformed_refuses_long_program :
    programFits (List.replicate 0xC01 0#8) = false ∧ programFits (List.replicate 0xC00 0#8) = true := by
  refine ⟨?_, ?_⟩ <;> rw [programFits, List.length_replicate] <;> decide

/-! ### Every constructor's word, written out by the patterns of R310 -/

theorem test_decode_families_0_to_7 :
    decode 0b0000000011100000#16 = .ok .cls ∧ decode 0b0000000011101110#16 = .ok .ret ∧
    decode 0b0001001000101000#16 = .ok (.jp 0x228#12) ∧ decode 0b0010111011011100#16 = .ok (.call 0xEDC#12) ∧
    decode 0b0011101000000101#16 = .ok (.seq 0xA#4 0x05#8) ∧
    decode 0b0100101000000101#16 = .ok (.snelit 0xA#4 0x05#8) ∧
    decode 0b0101101010110111#16 = .ok (.se 0xA#4 0xB#4) ∧
    decode 0b0110101000000010#16 = .ok (.ldl 0xA#4 0x02#8) ∧
    decode 0b0111101011111111#16 = .ok (.addl 0xA#4 0xFF#8) := by decide +kernel

theorem test_decode_family_8 :
    decode 0b1000000100100000#16 = .ok (.ld 1#4 2#4) ∧ decode 0b1000000100100001#16 = .ok (.or 1#4 2#4) ∧
    decode 0b1000000100100010#16 = .ok (.and 1#4 2#4) ∧ decode 0b1000000100100011#16 = .ok (.xor 1#4 2#4) ∧
    decode 0b1000000100100100#16 = .ok (.addc 1#4 2#4) ∧ decode 0b1000000100100101#16 = .ok (.subc 1#4 2#4) ∧
    decode 0b1000000100100110#16 = .ok (.shrc 1#4 2#4) ∧ decode 0b1000000100100111#16 = .ok (.subn 1#4 2#4) ∧
    decode 0b1000000100101110#16 = .ok (.shlc 1#4 2#4) := by decide +kernel

theorem test_decode_families_9_to_E :
    decode 0b1001101010110011#16 = .ok (.sne 0xA#4 0xB#4) ∧ decode 0b1010001011110000#16 = .ok (.ldi 0x2F0#12) ∧
    decode 0b1011001100000000#16 = .ok (.jpl 0x300#12) ∧ decode 0b1100001100001111#16 = .ok (.rnd 3#4 0x0F#8) ∧
    decode 0b1101000100100101#16 = .ok (.drw 1#4 2#4 5#4) ∧ decode 0b1110010110011110#16 = .ok (.skp 5#4) ∧
    decode 0b1110010110100001#16 = .ok (.sknp 5#4) := by decide +kernel

theorem test_decode_family_F :
    decode 0b1111001100000111#16 = .ok (.movdt 3#4) ∧ decode 0b1111001100001010#16 = .ok (.ldkb 3#4) ∧
    decode 0b1111001100010101#16 = .ok (.lddt 3#4) ∧ decode 0b1111001100011000#16 = .ok (.ldst 3#4) ∧
    decode 0b1111001000011110#16 = .ok (.addi 2#4) ∧ decode 0b1111010000101001#16 = .ok (.ldspr 4#4) ∧
    decode 0b1111011100110011#16 = .ok (.ldbcd 7#4) ∧ decode 0b1111001001010101#16 = .ok (.pushreg 2#4) ∧
    decode 0b1111001001100101#16 = .ok (.popreg 2#4) := by decide +kernel

/-- DC1 to DC8: the words that are no instruction. -/
theorem test_decode_errors :
    decode 0x0000#16 = .error (.unknownOpcode 0x0000#16) ∧ decode 0x00E1#16 = .error (.unknownOpcode 0x00E1#16) ∧
    decode 0x0123#16 = .error (.unknownOpcode 0x0123#16) ∧ decode 0x8008#16 = .error (.unknownSubcode 8#4 8#4) ∧
    decode 0x800F#16 = .error (.unknownSubcode 8#4 0xF#4) ∧ decode 0xE09F#16 = .error (.unknownOpcode 0xE09F#16) ∧
    decode 0xF000#16 = .error (.unknownOpcode 0xF000#16) ∧ decode 0xF0FF#16 = .error (.unknownOpcode 0xF0FF#16) := by
  decide +kernel

/-- R314's own examples of the assembler text. -/
theorem test_assembler_text :
    asmText (.jp 0x228#12) = "JP 0x228" ∧ asmText (.ldl 0xA#4 0x02#8) = "LDL VA, 0x02" ∧
    asmText (.and 1#4 2#4) = "AND V1, V2" ∧ asmText (.drw 0#4 1#4 5#4) = "DRW V0, V1, 5" := by decide +kernel

/-- Program P1's first and last words (95_test_vectors.md L3), with its labels. -/
theorem test_assembler_bytes :
    assemble 0x200 [.op (.ldl 0#4 0#8), .label "halt", .opAt .jp "halt", .dw 0xABCD#16, .db 0x7F#8] =
      some [0x60#8, 0x00#8, 0x12#8, 0x02#8, 0xAB#8, 0xCD#8, 0x7F#8] := by decide +kernel

/-! ### One step, from the start state of 95_test_vectors.md -/

/-- The conventions' start state: reset, every quirk false, and one quiet turn of the host. -/
def start : State := { State.reset with quirks := ⟨false, false, false⟩, script := [HostTurn.quiet] }

/-- The start state with all three quirks set. -/
def startQuirks : State := { start with quirks := ⟨true, true, true⟩ }

/-- The start state with general registers given from V0 on. -/
def withRegs (bs : List Byte) (s : State) : State := s.setRegBlock bs

/-- The state with one register given. -/
def withReg (k : Reg) (b : Byte) (s : State) : State := s.setReg k b

/-- The state with bytes placed from an address on. -/
def withBytes (a : Nat) (bs : List Byte) (s : State) : State := { s with mem := s.mem.place a bs }

/-- The state with one turn of the host scheduled. -/
def withTurn (t : HostTurn) (s : State) : State := { s with script := [t] }

/-- The state with DT, ST given and `tick_due` asserted in the coming step. -/
def withTick (dt st : Byte) (s : State) : State :=
  { s with dt := dt, st := st, script := [⟨[], none, none, true, 0#8⟩] }

/-- The state with a call stack of n entries, each 0x0204. -/
def withStack (n : Fin 17) (s : State) : State := { s with sp := n, stack := Vector.replicate 16 0x0204#16 }

/-- Whether one step of word w from s answers a next state of which p holds. -/
def runs (w : Word) (s : State) (p : State → Bool) : Bool :=
  match step (s.withFetchWord 16 w.toNat) with
  | .next t => p t
  | .fault _ => false
  | .refused _ => false

/-- The step raised this error. -/
def failed (c : ErrorCause) (pcInstr : Word) (t : State) : Bool :=
  t.fault == some ⟨c, pcInstr⟩ && t.result == some (.err ⟨c, pcInstr⟩)

/-- CT1. -/
theorem test_ret_pops : runs 0x00EE#16 (withStack 1 { start with pc := 0x300#16 })
    (fun t => t.pc == 0x204#16 && t.sp == 0 && t.result == some (.ok .ret)) = true := by decide +kernel

/-- CT2. -/
theorem test_ret_underflow : runs 0x00EE#16 { start with pc := 0x300#16 }
    (fun t => failed .stackUnderflow 0x300#16 t && t.pc == 0x302#16 && t.sp == 0) = true := by decide +kernel

/-- CT3. -/
theorem test_jp_self_halts : runs 0x1228#16 { start with pc := 0x228#16 }
    (fun t => t.pc == 0x228#16 && t.halted) = true := by decide +kernel

/-- CT4. -/
theorem test_jp_elsewhere : runs 0x1228#16 { start with pc := 0x226#16 }
    (fun t => t.pc == 0x228#16 && !t.halted) = true := by decide +kernel

/-- CT5. -/
theorem test_call_pushes : runs 0x2300#16 start
    (fun t => t.pc == 0x300#16 && t.sp == 1 && t.stack[0] == 0x202#16 && t.stack[1] == 0#16) = true := by
  decide +kernel

/-- CT6. -/
theorem test_call_overflow : runs 0x2300#16 (withStack 16 start)
    (fun t => failed .stackOverflow 0x200#16 t && t.pc == 0x202#16 && t.sp == 16 && t.stack[15] == 0x204#16) = true := by
  decide +kernel

/-- CT7, CT8. -/
theorem test_jpl_not_masked :
    runs 0xB300#16 (withReg 0#4 0x04#8 start) (fun t => t.pc == 0x304#16) = true ∧
    runs 0xBFFF#16 (withReg 0#4 0xFF#8 start) (fun t => t.pc == 0x10FE#16) = true := by decide +kernel

/-- SK1, SK2. -/
theorem test_seq :
    runs 0x3A05#16 (withReg 0xA#4 0x05#8 start) (fun t => t.pc == 0x204#16) = true ∧
    runs 0x3A05#16 (withReg 0xA#4 0x06#8 start) (fun t => t.pc == 0x202#16) = true := by decide +kernel

/-- SK3, SK4. -/
theorem test_snelit :
    runs 0x4A05#16 (withReg 0xA#4 0x05#8 start) (fun t => t.pc == 0x202#16) = true ∧
    runs 0x4A05#16 (withReg 0xA#4 0x06#8 start) (fun t => t.pc == 0x204#16) = true := by decide +kernel

/-- SK6, SK7. -/
theorem test_se :
    runs 0x5AB0#16 (withReg 0xA#4 0x07#8 (withReg 0xB#4 0x08#8 start)) (fun t => t.pc == 0x202#16) = true ∧
    runs 0x5AB7#16 (withReg 0xA#4 0x07#8 (withReg 0xB#4 0x07#8 start)) (fun t => t.pc == 0x204#16) = true := by
  decide +kernel

/-- SK8, SK9. -/
theorem test_sne :
    runs 0x9AB0#16 (withReg 0xA#4 0x07#8 (withReg 0xB#4 0x08#8 start)) (fun t => t.pc == 0x204#16) = true ∧
    runs 0x9AB0#16 (withReg 0xA#4 0x07#8 (withReg 0xB#4 0x07#8 start)) (fun t => t.pc == 0x202#16) = true := by
  decide +kernel

/-- SK11, SK12; the key is set by the host before the strobe. -/
theorem test_skp :
    runs 0xE59E#16 (withTurn ⟨[(0xA#4, true)], none, none, false, 0#8⟩ (withReg 5#4 0x0A#8 start))
      (fun t => t.pc == 0x204#16) = true ∧
    runs 0xE59E#16 (withReg 5#4 0x0A#8 start) (fun t => t.pc == 0x202#16) = true := by decide +kernel

/-- SK14. -/
theorem test_skp_invalid_key : runs 0xE59E#16 (withReg 5#4 0x10#8 start)
    (fun t => failed (.invalidKey 0x10#8) 0x200#16 t && t.pc == 0x202#16) = true := by decide +kernel

/-- SK13. -/
theorem test_sknp :
    runs 0xE5A1#16 (withReg 5#4 0x0A#8 start) (fun t => t.pc == 0x204#16) = true ∧
    runs 0xE5A1#16 (withTurn ⟨[(0xA#4, true)], none, none, false, 0#8⟩ (withReg 5#4 0x0A#8 start))
      (fun t => t.pc == 0x202#16) = true := by decide +kernel

/-- AL1. -/
theorem test_ldl : runs 0x6A02#16 start (fun t => t.reg 0xA#4 == 0x02#8 && t.pc == 0x202#16) = true := by
  decide +kernel

/-- AL2. -/
theorem test_addl_wraps : runs 0x7AFF#16 (withReg 0xA#4 0x02#8 (withReg 0xF#4 0x55#8 start))
    (fun t => t.reg 0xA#4 == 0x01#8 && t.reg 0xF#4 == 0x55#8) = true := by decide +kernel

/-- AL3. -/
theorem test_ld : runs 0x8120#16 (withReg 2#4 0x42#8 start) (fun t => t.reg 1#4 == 0x42#8) = true := by decide +kernel

/-- The start of AL4 to AL7. -/
def logicStart (s : State) : State := withReg 1#4 0x3C#8 (withReg 2#4 0x0F#8 (withReg 0xF#4 0x55#8 s))

/-- AL4, AL7. -/
theorem test_or :
    runs 0x8121#16 (logicStart start) (fun t => t.reg 1#4 == 0x3F#8 && t.reg 0xF#4 == 0x55#8) = true ∧
    runs 0x8121#16 (logicStart startQuirks) (fun t => t.reg 1#4 == 0x3F#8 && t.reg 0xF#4 == 0#8) = true := by
  decide +kernel

/-- AL5, AL8. -/
theorem test_and :
    runs 0x8122#16 (logicStart start) (fun t => t.reg 1#4 == 0x0C#8 && t.reg 0xF#4 == 0x55#8) = true ∧
    runs 0x8F12#16 (withReg 1#4 0x0F#8 (withReg 0xF#4 0xFF#8 startQuirks)) (fun t => t.reg 0xF#4 == 0#8) = true := by
  decide +kernel

/-- AL6, AL7. -/
theorem test_xor :
    runs 0x8123#16 (logicStart start) (fun t => t.reg 1#4 == 0x33#8 && t.reg 0xF#4 == 0x55#8) = true ∧
    runs 0x8123#16 (logicStart startQuirks) (fun t => t.reg 1#4 == 0x33#8 && t.reg 0xF#4 == 0#8) = true := by
  decide +kernel

/-- AL11, AL12. -/
theorem test_addc :
    runs 0x8124#16 (withRegs [0#8, 0xFF#8, 0x01#8] start) (fun t => t.reg 1#4 == 0#8 && t.reg 0xF#4 == 1#8) = true ∧
    runs 0x8124#16 (withRegs [0#8, 0x80#8, 0x7F#8] start) (fun t => t.reg 1#4 == 0xFF#8 && t.reg 0xF#4 == 0#8) = true := by
  decide +kernel

/-- AL15: the flag wins over the sum. -/
theorem test_addc_flag_wins : runs 0x8F14#16 (withReg 1#4 0x20#8 (withReg 0xF#4 0xF0#8 start))
    (fun t => t.reg 0xF#4 == 1#8) = true := by decide +kernel

/-- AL16, AL17. -/
theorem test_subc :
    runs 0x8125#16 (withRegs [0#8, 0x10#8, 0x20#8] start) (fun t => t.reg 1#4 == 0xF0#8 && t.reg 0xF#4 == 0#8) = true ∧
    runs 0x8125#16 (withRegs [0#8, 0x20#8, 0x20#8] start) (fun t => t.reg 1#4 == 0#8 && t.reg 0xF#4 == 1#8) = true := by
  decide +kernel

/-- AL22. -/
theorem test_subn :
    runs 0x8127#16 (withRegs [0#8, 0x10#8, 0x20#8] start) (fun t => t.reg 1#4 == 0x10#8 && t.reg 0xF#4 == 1#8) = true ∧
    runs 0x8127#16 (withRegs [0#8, 0x20#8, 0x10#8] start) (fun t => t.reg 1#4 == 0xF0#8 && t.reg 0xF#4 == 0#8) = true := by
  decide +kernel

/-- AL23, AL24. -/
theorem test_shrc :
    runs 0x8126#16 (withRegs [0#8, 0x05#8, 0x80#8] startQuirks) (fun t => t.reg 1#4 == 0x02#8 && t.reg 0xF#4 == 1#8) =
      true ∧
    runs 0x8126#16 (withRegs [0#8, 0x05#8, 0x80#8] start) (fun t => t.reg 1#4 == 0x40#8 && t.reg 0xF#4 == 0#8) = true := by
  decide +kernel

/-- AL28: the bit shifted out wins over the shifted value. -/
theorem test_shrc_flag_wins : runs 0x8FF6#16 (withReg 0xF#4 0x03#8 startQuirks)
    (fun t => t.reg 0xF#4 == 1#8) = true := by decide +kernel

/-- AL25, AL26. -/
theorem test_shlc :
    runs 0x812E#16 (withRegs [0#8, 0x81#8, 0x01#8] startQuirks) (fun t => t.reg 1#4 == 0x02#8 && t.reg 0xF#4 == 1#8) =
      true ∧
    runs 0x812E#16 (withRegs [0#8, 0x81#8, 0x01#8] start) (fun t => t.reg 1#4 == 0x02#8 && t.reg 0xF#4 == 0#8) = true := by
  decide +kernel

/-- AL29: the source is VF, read before the writes. -/
theorem test_shlc_source_vf : runs 0x81FE#16 (withReg 0xF#4 0x80#8 start)
    (fun t => t.reg 1#4 == 0#8 && t.reg 0xF#4 == 1#8) = true := by decide +kernel

/-- AL30. -/
theorem test_rnd_masks : runs 0xC30F#16 (withTurn ⟨[], none, none, false, 0xB7#8⟩ start)
    (fun t => t.reg 3#4 == 0x07#8) = true := by decide +kernel

/-- MM1. -/
theorem test_ldi : runs 0xA2F0#16 start (fun t => t.idx == 0x2F0#12) = true := by decide +kernel

/-- MM2. -/
theorem test_addi_wraps : runs 0xF21E#16 { (withReg 2#4 0x03#8 (withReg 0xF#4 0x77#8 start)) with idx := 0xFFE#12 }
    (fun t => t.idx == 0x001#12 && t.reg 0xF#4 == 0x77#8) = true := by decide +kernel

/-- MM5, MM6. -/
theorem test_ldspr_whole_byte :
    runs 0xF429#16 (withReg 4#4 0x10#8 start) (fun t => t.idx == 0x050#12) = true ∧
    runs 0xF429#16 (withReg 4#4 0xFF#8 start) (fun t => t.idx == 0x4FB#12) = true := by decide +kernel

/-- MM11. -/
theorem test_ldbcd_last_start : runs 0xF733#16 { (withReg 7#4 0xFE#8 start) with idx := 0xFFD#12 }
    (fun t => t.mem.read 0xFFD == 2#8 && t.mem.read 0xFFE == 5#8 && t.mem.read 0xFFF == 4#8) = true := by decide +kernel

/-- MM12. -/
theorem test_ldbcd_beyond : runs 0xF733#16 { (withReg 7#4 0xFE#8 start) with idx := 0xFFE#12 }
    (fun t => failed (.memoryOutOfBounds 0x1000) 0x200#16 t && t.mem.read 0xFFE == 0#8 && t.mem.read 0xFFF == 0#8) =
      true := by decide +kernel

/-- MM13, MM14. -/
theorem test_pushreg :
    runs 0xF255#16 { (withRegs [1#8, 2#8, 3#8, 9#8] start) with idx := 0x300#12 } (fun t => t.mem.read 0x300 == 1#8 &&
      t.mem.read 0x302 == 3#8 && t.mem.read 0x303 == 0#8 && t.idx == 0x300#12) = true ∧
    runs 0xF255#16 { (withRegs [1#8, 2#8, 3#8, 9#8] startQuirks) with idx := 0x300#12 } (fun t =>
      t.mem.read 0x302 == 3#8 && t.mem.read 0x303 == 0#8 && t.idx == 0x303#12) = true := by decide +kernel

/-- MM18, MM19. -/
theorem test_pushreg_edge :
    runs 0xFF55#16 { (withReg 0xF#4 0xFF#8 startQuirks) with idx := 0xFF0#12 }
      (fun t => t.mem.read 0xFFF == 0xFF#8 && t.idx == 0x000#12) = true ∧
    runs 0xFF55#16 { (withReg 0xE#4 0xEE#8 startQuirks) with idx := 0xFF1#12 } (fun t =>
      failed (.memoryOutOfBounds 0x1000) 0x200#16 t && t.mem.read 0xFFF == 0#8 && t.idx == 0xFF1#12) = true := by
  decide +kernel

/-- MM15. -/
theorem test_popreg : runs 0xF265#16 (withBytes 0x300 [0x0A#8, 0x0B#8, 0x0C#8, 0x0D#8] { start with idx := 0x300#12 })
    (fun t => t.reg 0#4 == 0x0A#8 && t.reg 2#4 == 0x0C#8 && t.reg 3#4 == 0#8 && t.idx == 0x300#12) = true := by
  decide +kernel

/-- MM20, with the `memory` quirk's advance of R805. -/
theorem test_popreg_all : runs 0xFF65#16 (withBytes 0x30F [0x99#8] { startQuirks with idx := 0x300#12 })
    (fun t => t.reg 0xF#4 == 0x99#8 && t.idx == 0x310#12) = true := by decide +kernel

/-- DR3. -/
theorem test_cls : runs 0x00E0#16 { start with fb := FrameBuffer.blank.toggle 5 5 }
    (fun t => !t.fb.pixel 5 5) = true := by decide +kernel

/-- DR4: clipped at column 64, nothing in the next row. -/
theorem test_drw_clips : runs 0xD011#16 (withBytes 0x300 [0xFF#8] { (withReg 0#4 60#8 start) with idx := 0x300#12 })
    (fun t => t.fb.pixel 60 0 && t.fb.pixel 63 0 && !t.fb.pixel 59 0 && !t.fb.pixel 0 0 && !t.fb.pixel 0 1 &&
      t.reg 0xF#4 == 0#8) = true := by decide +kernel

/-- DR11, with the start wrapped as in DR6: the sprite C0 at (70, 33) is drawn at (6, 1), and erases (7, 1). -/
theorem test_drw_wraps_and_collides : runs 0xD011#16 (withBytes 0x300 [0xC0#8]
      { (withRegs [70#8, 33#8] start) with idx := 0x300#12, fb := FrameBuffer.blank.toggle 7 1 })
    (fun t => t.fb.pixel 6 1 && !t.fb.pixel 7 1 && t.reg 0xF#4 == 1#8) = true := by decide +kernel

/-- TK1. -/
theorem test_movdt_post_tick : runs 0xF307#16 (withTick 5#8 0#8 start)
    (fun t => t.reg 3#4 == 4#8 && t.dt == 4#8 && t.st == 0#8) = true := by decide +kernel

/-- TK5. -/
theorem test_lddt_after_tick : runs 0xF315#16 (withTick 7#8 0#8 (withReg 3#4 0x3C#8 start))
    (fun t => t.dt == 0x3C#8) = true := by decide +kernel

/-- TK6. -/
theorem test_ldst_after_tick : runs 0xF318#16 (withTick 0#8 7#8 (withReg 3#4 0x10#8 start))
    (fun t => t.st == 0x10#8) = true := by decide +kernel

/-- TK7. -/
theorem test_ldkb_polls : runs 0xF30A#16 (withTick 3#8 0#8 (withReg 3#4 0x55#8 start))
    (fun t => t.pc == 0x200#16 && t.reg 3#4 == 0x55#8 && t.dt == 2#8 && t.result == some (.ok (.ldkb 3#4))) = true := by
  decide +kernel

/-- TK8. -/
theorem test_ldkb_stores : runs 0xF30A#16 (withTurn ⟨[], none, some 7#4, false, 0#8⟩ start)
    (fun t => t.pc == 0x202#16 && t.reg 3#4 == 7#8) = true := by decide +kernel

/-- ST1. -/
theorem test_illegal_word_keeps_tick : runs 0x800F#16 (withTick 2#8 0#8 start)
    (fun t => failed (.unknownSubcode 8#4 0xF#4) 0x200#16 t && t.pc == 0x202#16 && t.dt == 1#8) = true := by
  decide +kernel

/-- ST2. -/
theorem test_fetch_at_last_byte : runs 0x6011#16 (withTick 2#8 0#8 { start with pc := 0xFFF#16 })
    (fun t => failed (.fetchOutOfBounds 0xFFF#16) 0xFFF#16 t && t.pc == 0xFFF#16 && t.dt == 1#8) = true := by
  decide +kernel

/-- ST3, its first step. -/
theorem test_fetch_at_last_word : runs 0x6011#16 { start with pc := 0xFFE#16 }
    (fun t => t.reg 0#4 == 0x11#8 && t.pc == 0x1000#16 && t.fault.isNone) = true := by decide +kernel

/-- ST4. -/
theorem test_faulted_core_has_no_step :
    step { start with fault := some ⟨.stackUnderflow, 0x300#16⟩ } = .fault (.coreFaulted ⟨.stackUnderflow, 0x300#16⟩) := by
  rfl

/-! ### Witnesses: concrete states and operands that meet the hypotheses of the obligations, clause by clause -/

/-- The start state inside a step's execute phase: `pc_instr` 0x0200, pc past it, inputs given. -/
def inExec (k : Option Nibble) (s : State) : State := { s with pc := 0x202#16, latch := ⟨0x200#16, k, 0xB7#8⟩ }

/-- The start state with I given. -/
def withIdx (a : Addr) (s : State) : State := { s with idx := a }

/-- The state with two quiet turns of the host scheduled. -/
def withTurns (s : State) : State := { s with script := [HostTurn.quiet, HostTurn.quiet] }

/-- The start state with a word where the next step fetches it. -/
def withWord (w : Word) (s : State) : State := s.withFetchWord 16 w.toNat

theorem witness_EncodeOfDecodeGivesWordBack :
    decode 0x5AB7#16 = .ok (.se 0xA#4 0xB#4) ∧ fieldH 0x5AB7#16 = 0x5#4 ∧
    decode 0x9AB3#16 = .ok (.sne 0xA#4 0xB#4) ∧ fieldH 0x9AB3#16 = 0x9#4 ∧
    decode 0x1228#16 = .ok (.jp 0x228#12) ∧ ¬ (fieldH 0x1228#16 = 0x5#4 ∨ fieldH 0x1228#16 = 0x9#4) := by
  decide +kernel

theorem witness_EveryWordDecodesByTheTable :
    (∃ r ∈ opcodeTable, ∃ q ∈ opcodeTable, r.selects 0x00E0#16 = true ∧ q.selects 0x00E0#16 = true) ∧
    legalWord 0xFF65#16 = true ∧ legalWord 0x800F#16 = false ∧ fieldH 0x800F#16 = 0x8#4 ∧
    legalWord 0xFFFF#16 = false ∧ ¬ fieldH 0xFFFF#16 = 0x8#4 ∧
    fieldH 0x00E1#16 = 0x0#4 ∧ 0x00E1#16 ≠ 0x00E0#16 ∧ 0x00E1#16 ≠ 0x00EE#16 := by decide +kernel

theorem witness_LogicWithVfReset :
    (Instr.and, and) = (Instr.and, and) ∧ (Instr.or, or) = (Instr.or, or) ∧ (Instr.xor, xor) = (Instr.xor, xor) ∧
    ¬ ((0xF#4 : Reg) = Reg.vf ∧ start.quirks.vfReset = true) ∧
    ¬ ((0xE#4 : Reg) = Reg.vf ∧ startQuirks.quirks.vfReset = true) ∧
    startQuirks.quirks.vfReset = true ∧ start.quirks.vfReset = false := by
  refine ⟨rfl, rfl, rfl, ?_⟩
  decide +kernel

theorem witness_AddWithCarry : (0xE#4 : Reg) ≠ Reg.vf ∧ (0x0#4 : Reg) ≠ Reg.vf := by decide

theorem witness_SubtractWithNoBorrow : (0xE#4 : Reg) ≠ Reg.vf ∧ (0x0#4 : Reg) ≠ Reg.vf := by decide

theorem witness_ShiftsByOne :
    (5 = if (withRegs [0#8, 0x05#8, 0x80#8] startQuirks).quirks.shifting = true then
      ((withRegs [0#8, 0x05#8, 0x80#8] startQuirks).reg 1#4).toNat
      else ((withRegs [0#8, 0x05#8, 0x80#8] startQuirks).reg 2#4).toNat) ∧
    (128 = if (withRegs [0#8, 0x05#8, 0x80#8] start).quirks.shifting = true then
      ((withRegs [0#8, 0x05#8, 0x80#8] start).reg 1#4).toNat
      else ((withRegs [0#8, 0x05#8, 0x80#8] start).reg 2#4).toNat) ∧ (1#4 : Reg) ≠ Reg.vf := by decide +kernel

theorem witness_KeySkips :
    ((withReg 5#4 0x00#8 start).reg 5#4).toNat < 16 ∧ ((withReg 5#4 0x0F#8 start).reg 5#4).toNat < 16 ∧
    0xF < ((withReg 5#4 0x10#8 start).reg 5#4).toNat ∧ 0xF < ((withReg 5#4 0xFF#8 start).reg 5#4).toNat := by
  decide +kernel

theorem witness_ReturnPops :
    0 < (withStack 1 start).sp.val ∧ 0 < (withStack 16 start).sp.val ∧ (withStack 16 start).sp.val - 1 < 16 ∧
    (withStack 0 start).sp.val = 0 := by decide +kernel

theorem witness_JumpSetsHaltedOnSelfLoop :
    (0x200#12).toNat = (inExec none start).latch.pcInstr.toNat ∧
    (0x201#12).toNat ≠ (inExec none start).latch.pcInstr.toNat := by decide +kernel

theorem witness_CallPushes :
    (withStack 0 start).sp.val < 16 ∧ (withStack 15 start).sp.val < 16 ∧ (withStack 16 start).sp.val = 16 := by
  decide +kernel

theorem witness_ReturnAfterCallComesBack :
    (withStack 0 start).sp.val < 16 ∧ (withStack 15 start).sp.val < 16 ∧
    (0 : Fin 16).val < (withStack 15 start).sp.val := by decide +kernel

theorem witness_DecimalDigitsStored :
    (withIdx 0xFFD#12 start).idx.toNat ≤ 0xFFD ∧ (withIdx 0xFFD#12 start).mem.wf = true ∧
    0xFFD < (withIdx 0xFFE#12 start).idx.toNat := by decide +kernel

theorem witness_RegisterBlockStored :
    (withIdx 0xFF0#12 startQuirks).idx.toNat + (0xF#4 : Reg).toNat ≤ 0xFFF ∧
    (withIdx 0xFF0#12 startQuirks).mem.wf = true ∧ (withIdx 0xFF0#12 startQuirks).quirks.memory = true ∧
    (0xF#4 : Reg).toNat ≤ (0xF#4 : Reg).toNat ∧
    (withIdx 0xFFF#12 start).idx.toNat + (0#4 : Reg).toNat ≤ 0xFFF ∧
    0xFFF < (withIdx 0xFF1#12 start).idx.toNat + (0xF#4 : Reg).toNat := by decide +kernel

theorem witness_RegisterBlockLoaded :
    (withIdx 0xFF0#12 startQuirks).idx.toNat + (0xF#4 : Reg).toNat ≤ 0xFFF ∧
    (withIdx 0xFFF#12 start).idx.toNat + (0#4 : Reg).toNat ≤ 0xFFF ∧
    0xFFF < (withIdx 0xFF1#12 start).idx.toNat + (0xF#4 : Reg).toNat := by decide +kernel

theorem witness_OneByteAccesses :
    0xFFF ≤ 0xFFF ∧ Memory.wf (Memory.place [] 0xFFE [1#8, 2#8]) = true ∧ 0xFFF < 0x1000 := by decide +kernel

/-- F155 at 0x0200 with I = 0x0202: the block lands on the next word. -/
theorem witness_StoredBytesAreFetchedNext :
    (withWord 0xF155#16 (withIdx 0x202#12 start)).fault = none ∧
    (withWord 0xF155#16 (withIdx 0x202#12 start)).mem.wf = true ∧
    (withWord 0xF155#16 (withIdx 0x202#12 start)).pc.toNat ≤ 0xFFE ∧
    decode (withWord 0xF155#16 (withIdx 0x202#12 start)).fetchWord = .ok (.pushreg 1#4) ∧
    (withWord 0xF155#16 (withIdx 0x202#12 start)).idx.toNat + (1#4 : Reg).toNat ≤ 0xFFF ∧
    (0#4 : Reg).toNat ≤ (1#4 : Reg).toNat ∧ (1#4 : Reg).toNat ≤ (1#4 : Reg).toNat ∧
    (withWord 0xF155#16 (withIdx 0x202#12 start)).idx.toNat + (0#4 : Reg).toNat =
      (withWord 0xF155#16 (withIdx 0x202#12 start)).pc.toNat + 2 ∧
    (1#4 : Reg).toNat = (0#4 : Reg).toNat + 1 := by decide +kernel

/-- I = 0, the default FONT's glyph 0, drawn at (0, 0). -/
theorem witness_SpriteDrawnPixelByPixel :
    (0#4 : Nibble) = 0#4 ∧ (withIdx 0xFFF#12 start).idx.toNat + (1#4 : Nibble).toNat ≤ 0x1000 ∧
    ({ start with fb := FrameBuffer.blank.toggle 3 0 } : State).spriteErases 0#4 0#4 5#4 ∧
    ¬ start.spriteErases 0#4 0#4 5#4 ∧
    (2#4 : Nibble) ≠ 0#4 ∧ 0x1000 < (withIdx 0xFFF#12 start).idx.toNat + (2#4 : Nibble).toNat := by
  refine ⟨rfl, by decide +kernel, ⟨3, 0, by decide +kernel⟩, ?_, by decide, by decide +kernel⟩
  rintro ⟨px, py, _, _, _, h⟩
  rw [show start.fb.pixel px py = false from FrameBuffer.pixel_blank px py] at h
  cases h

theorem witness_DrawingTwiceRestores :
    (0#4 : Reg) ≠ Reg.vf ∧ (0xE#4 : Reg) ≠ Reg.vf ∧ start.idx.toNat + (5#4 : Nibble).toNat ≤ 0x1000 ∧
    (withIdx 0xFF1#12 start).idx.toNat + (0xF#4 : Nibble).toNat ≤ 0x1000 ∧
    (∃ t, exec (.drw 0#4 0xE#4 5#4) start = .next t ∧ t.reg Reg.vf = 0#8) ∧
    ∃ px py : Nat, px < 64 ∧ py < 32 ∧ start.spriteBit 0#4 0xE#4 5#4 px py = true := by
  refine ⟨by decide, by decide, by decide +kernel, by decide +kernel, ⟨_, rfl, by decide +kernel⟩, 0, 0, by decide +kernel⟩

theorem witness_TimerReadsAndWrites :
    (withWord 0xF307#16 start).fault = none ∧ (withWord 0xF307#16 start).pc.toNat ≤ 0xFFE ∧
    decode (withWord 0xF307#16 start).fetchWord = .ok (.movdt 3#4) ∧
    decode (withWord 0xF315#16 { start with pc := 0xFFE#16 }).fetchWord = .ok (.lddt 3#4) ∧
    decode (withWord 0xF318#16 start).fetchWord = .ok (.ldst 3#4) := by decide +kernel

/-- LDDT V3 (LDST V3) at 0x0200, then LDL at 0x0202, two host turns scheduled. -/
theorem witness_WrittenTimerIsTickedByTheNextDueStep :
    (∃ t u, step (withBytes 0x200 [0xF3#8, 0x15#8, 0x6A#8, 0x02#8] (withTurns start)) = .next t ∧ step t = .next u ∧
      ∀ y, decode t.fetchWord ≠ .ok (.lddt y)) ∧
    (∃ t u, step (withBytes 0x200 [0xF3#8, 0x18#8, 0x6A#8, 0x02#8] (withTurns start)) = .next t ∧ step t = .next u ∧
      ∀ y, decode t.fetchWord ≠ .ok (.ldst y)) ∧
    decode (withBytes 0x200 [0xF3#8, 0x15#8, 0x6A#8, 0x02#8] (withTurns start)).fetchWord = .ok (.lddt 3#4) ∧
    decode (withBytes 0x200 [0xF3#8, 0x18#8, 0x6A#8, 0x02#8] (withTurns start)).fetchWord = .ok (.ldst 3#4) ∧
    (withBytes 0x200 [0xF3#8, 0x18#8, 0x6A#8, 0x02#8] (withTurns start)).pc.toNat ≤ 0xFFE := by
  refine ⟨⟨_, _, rfl, rfl, by decide +kernel⟩, ⟨_, _, rfl, rfl, by decide +kernel⟩, ?_⟩
  decide +kernel

theorem witness_FrameBufferPortIsRowMajor : 63 < 64 ∧ 31 < 32 := by decide

theorem witness_KeyWaitPollsOrStores :
    (inExec none start).latch.keyEvent = none ∧ (inExec (some 0xF#4) start).latch.keyEvent = some 0xF#4 ∧
    (withWord 0xF30A#16 start).fault = none ∧ (withWord 0xF30A#16 start).pc.toNat ≤ 0xFFE ∧
    decode (withWord 0xF30A#16 start).fetchWord = .ok (.ldkb 3#4) ∧
    (withWord 0xF30A#16 start).nextTurn.keyEvent = none := by decide +kernel

theorem witness_StepRunsTheDecodedInstruction :
    (withWord 0x6A02#16 { start with pc := 0xFFE#16 }).fault = none ∧
    (withWord 0x6A02#16 { start with pc := 0xFFE#16 }).pc.toNat ≤ 0xFFE ∧
    decodeBytes ((withWord 0x6A02#16 { start with pc := 0xFFE#16 }).mem.read 0xFFE)
      ((withWord 0x6A02#16 { start with pc := 0xFFE#16 }).mem.read 0xFFF) = .ok (.ldl 0xA#4 0x02#8) ∧
    start.script = [HostTurn.quiet] ∧ State.reset.script = [] := by decide +kernel

theorem witness_FetchBeyondMemoryRaises :
    ({ start with pc := 0xFFF#16 } : State).fault = none ∧ 0xFFE < ({ start with pc := 0xFFF#16 } : State).pc.toNat := by
  decide +kernel

theorem witness_IllegalWordRaisesDecodeError :
    (withWord 0x800F#16 start).fault = none ∧ (withWord 0x800F#16 start).pc.toNat ≤ 0xFFE ∧
    legalWord (withWord 0x800F#16 start).fetchWord = false ∧ fieldH (withWord 0x800F#16 start).fetchWord = 0x8#4 ∧
    legalWord (withWord 0xE09F#16 start).fetchWord = false ∧ fieldH (withWord 0xE09F#16 start).fetchWord ≠ 0x8#4 := by
  decide +kernel

theorem witness_StepStopsExactlyWhenFaulted :
    ({ start with fault := some ⟨.stackOverflow, 0#16⟩ } : State).fault = some ⟨.stackOverflow, 0#16⟩ ∧
    start.fault = none := by decide +kernel

/-- A step of LDL, which is neither LDDT nor LDST. -/
theorem witness_TimersTickOncePerDueStep :
    (∃ t, step (withWord 0x6A02#16 start) = .next t) ∧
    (∀ x, decode (withWord 0x6A02#16 start).fetchWord ≠ .ok (.lddt x)) ∧
    ∀ x, decode (withWord 0x6A02#16 start).fetchWord ≠ .ok (.ldst x) := by
  refine ⟨⟨_, rfl⟩, ?_, ?_⟩ <;> decide +kernel

theorem witness_KeysAndQuirksAreTheHosts : ∃ t, step (withWord 0x6A02#16 start) = .next t := ⟨_, rfl⟩

/-- JP 0x200 at 0x0200 jumps to itself; JP 0x202 there does not. -/
theorem witness_HaltedIsTheHostsButForSelfJump :
    (∃ t, step (withWord 0x1200#16 start) = .next t) ∧ (∃ t, step (withWord 0x1202#16 start) = .next t) ∧
    (withWord 0x1200#16 start).selfJumps ∧ ¬ (withWord 0x1202#16 start).selfJumps := by
  refine ⟨⟨_, rfl⟩, ⟨_, rfl⟩, ⟨by decide +kernel, 0x200#12, by decide +kernel⟩, ?_⟩
  rintro ⟨_, nnn, h, hn⟩
  have hw : decode (withWord 0x1202#16 start).fetchWord = .ok (.jp 0x202#12) := by decide +kernel
  rw [hw] at h
  cases h
  revert hn
  decide +kernel

theorem witness_EachPartHasOnlyItsWriters :
    (∃ t, exec (.ldl 0#4 1#8) (inExec none start) = .next t) ∧
    (Instr.ldl 0#4 1#8).mnemonic ∉ writersOf .fb ∧ (Instr.cls).mnemonic ∉ writersOf .regs := by
  refine ⟨⟨_, rfl⟩, ?_⟩
  decide +kernel

theorem witness_RegistersChangeOnlyAsListed :
    (∃ t, exec (.popreg 3#4) start = .next t) ∧ writesReg start.quirks (.popreg 3#4) 4#4 = false ∧
    writesReg start.quirks (.or 3#4 4#4) Reg.vf = false ∧ writesReg startQuirks.quirks (.or 3#4 4#4) Reg.vf = true := by
  refine ⟨⟨_, rfl⟩, ?_⟩
  decide +kernel

theorem witness_RuntimeErrorsArePrecise :
    start.fault = none ∧ ∃ t e, exec .ret (inExec none start) = .next t ∧ t.fault = some e :=
  ⟨rfl, _, _, rfl, rfl⟩

theorem witness_OnlySelfJumpSetsHalted :
    ∃ t, exec (.jp 0x200#12) (inExec none start) = .next t ∧ t.halted ≠ (inExec none start).halted :=
  ⟨_, rfl, by decide +kernel⟩

theorem witness_InputsReadOnlyByTheirInstructions :
    (some 7#4 = (inExec none start).latch.keyEvent ∨ (Instr.rnd 3#4 0xF#8).mnemonic ≠ "LDKB") ∧
    (0xB7#8 = (inExec none start).latch.randByte ∨ (Instr.rnd 3#4 0xF#8).mnemonic ≠ "RND") ∧
    (none = (inExec none start).latch.keyEvent ∨ (Instr.ldkb 3#4).mnemonic ≠ "LDKB") ∧
    (0x00#8 = (inExec none start).latch.randByte ∨ (Instr.ldkb 3#4).mnemonic ≠ "RND") := by decide +kernel

theorem witness_ConstructionGivesResetValues :
    (List.replicate 0xC00 (0xA5#8 : Byte)).length ≤ 0xC00 ∧ 0xC00 < (List.replicate 0xC01 (0xA5#8 : Byte)).length ∧
    0x50 ≤ 0x1FF ∧ (0x1FF < 0x200 ∨ 0x200 + (List.replicate 0xC00 (0xA5#8 : Byte)).length ≤ 0x1FF) ∧
    (0xE00 < 0x200 ∨ 0x200 + (List.replicate 0xC00 (0xA5#8 : Byte)).length ≤ 0xE00) := by
  rw [List.length_replicate, List.length_replicate]
  decide

theorem witness_ConstructionMeetsInvariant :
    ∃ s, State.construct fontParameter [0x12#8, 0x00#8] ⟨true, false, true⟩ = .ok s := ⟨_, rfl⟩

/-- From reset with one word placed, a step under the invariant. -/
theorem witness_StepKeepsInvariant :
    (withWord 0x6A02#16 start).Inv ∧ ∃ t, step (withWord 0x6A02#16 start) = .next t := by
  refine ⟨⟨by decide +kernel, rfl, by decide +kernel, by decide +kernel, ?_, ?_⟩, _, rfl⟩
  · intro e
    constructor <;> intro h <;> cases h
  · intro e h
    cases h

theorem witness_PlacedWordIsFetched :
    ({ start with pc := 0xFFE#16 } : State).mem.wf = true ∧ ({ start with pc := 0xFFE#16 } : State).pc.toNat ≤ 0xFFE ∧
    decode 0x6A02#16 = .ok (.ldl 0xA#4 0x02#8) := by decide +kernel

end Sys2Proof.Machine
end

/-! SUPPORT. Proofs about the state (10_state.md): which parts each instruction writes, what a step does around the execute
phase, who reads the sampled inputs, the frame-buffer port, and construction. -/

namespace Sys2Proof.Machine

/-! ### Frames of the state's operations -/

section Frames
variable {ps qs : List Part} {s t u : State}

theorem Unchanged.trans {p : Part} (h : Unchanged p s t) (h' : Unchanged p t u) : Unchanged p s u := by
  cases p <;> simp_all [Unchanged]

theorem ChangesOnly.trans (h : ChangesOnly ps s t) (h' : ChangesOnly qs t u) : ChangesOnly (ps ++ qs) s u := by
  intro p hp
  rw [List.mem_append, not_or] at hp
  exact (h p hp.1).trans (h' p hp.2)

theorem ChangesOnly.mono (h : ChangesOnly ps s t) (hsub : ps ⊆ qs) : ChangesOnly qs s t :=
  fun p hp => h p fun hps => hp (hsub hps)

theorem changesOnly_v (v : RegFile) : ChangesOnly [.regs] s { s with v := v } := by
  intro p hp
  cases p <;> simp [Unchanged] at hp ⊢

theorem changesOnly_pc (pc : Word) : ChangesOnly [.pc] s { s with pc := pc } := by
  intro p hp
  cases p <;> simp [Unchanged, State.reg] at hp ⊢

theorem changesOnly_idx (idx : Addr) : ChangesOnly [.idx] s { s with idx := idx } := by
  intro p hp
  cases p <;> simp [Unchanged, State.reg] at hp ⊢

theorem changesOnly_stack (stack : CallStack) (sp : Fin 17) :
    ChangesOnly [.stack] s { s with stack := stack, sp := sp } := by
  intro p hp
  cases p <;> simp [Unchanged, State.reg] at hp ⊢

theorem changesOnly_dt (dt : Byte) : ChangesOnly [.dt] s { s with dt := dt } := by
  intro p hp
  cases p <;> simp [Unchanged, State.reg] at hp ⊢

theorem changesOnly_st (st : Byte) : ChangesOnly [.st] s { s with st := st } := by
  intro p hp
  cases p <;> simp [Unchanged, State.reg] at hp ⊢

theorem changesOnly_fb (fb : FrameBuffer) : ChangesOnly [.fb] s { s with fb := fb } := by
  intro p hp
  cases p <;> simp [Unchanged, State.reg] at hp ⊢

theorem changesOnly_halted (b : Bool) : ChangesOnly [.halted] s { s with halted := b } := by
  intro p hp
  cases p <;> simp [Unchanged, State.reg] at hp ⊢

theorem changesOnly_mem (m : Memory) : ChangesOnly [.mem] s { s with mem := m } := by
  intro p hp
  cases p <;> simp [Unchanged, State.reg] at hp ⊢

theorem changesOnly_latch (l : Latch) : ChangesOnly [.latch] s { s with latch := l } := by
  intro p hp
  cases p <;> simp [Unchanged, State.reg] at hp ⊢

theorem changesOnly_of_push {w : Word} (h : s.push w = .ok t) : ChangesOnly [.stack] s t := by
  obtain ⟨u, _, hu, _, _, ht⟩ | ⟨_, hu⟩ := s.push_cases w
  · obtain rfl : u = t := by simpa [hu] using h
    rw [ht]
    exact changesOnly_stack _ _
  · simp [hu] at h

theorem changesOnly_of_popToPc (h : s.popToPc = .ok t) : ChangesOnly [.stack, .pc] s t := by
  obtain ⟨_, _, u, hu, _, _, ht⟩ | ⟨_, hu⟩ := s.popToPc_cases
  · obtain rfl : u = t := by simpa [hu] using h
    rw [ht]
    exact (changesOnly_stack s.stack u.sp).trans (changesOnly_pc u.pc)
  · simp [hu] at h

/-- A raised error changes the fault latch and the result alone (R1110). -/
theorem changesOnly_of_raise {c : ErrorCause} (h : raise c s = .next t) : ChangesOnly [.fault, .result] s t := by
  obtain ⟨u, hu, _, _, hframe⟩ := raise_raises c s
  obtain rfl : u = t := by simpa [hu] using h
  exact hframe

/-- Everything a checked operation that answers can have done. -/
theorem orRaise_next_cases {α : Type} {r : Except ErrorCause α} {k : α → State} (h : orRaise r s k = .next t) :
    (∃ a, r = .ok a ∧ t = k a) ∨ ∃ c, raise c s = .next t := by
  cases r with
  | ok a => cases h; exact .inl ⟨a, rfl, rfl⟩
  | error c => exact .inr ⟨c, h⟩

theorem changesOnly_of_orRaise {α : Type} {r : Except ErrorCause α} {k : α → State}
    (hk : ∀ a, r = .ok a → ChangesOnly ps s (k a)) (h : orRaise r s k = .next t) :
    ChangesOnly (ps ++ [.fault, .result]) s t := by
  obtain ⟨a, ha, rfl⟩ | ⟨c, hc⟩ := orRaise_next_cases h
  · exact (hk a ha).mono (List.subset_append_left _ _)
  · exact (changesOnly_of_raise hc).mono (List.subset_append_right _ _)

end Frames

/-! ### The frame of every instruction -/

/-- The parts of the state that an instruction's execute phase may write, its runtime error among them (R102 to R145, R201,
R1121). -/
def partsWrittenBy : Instr → List Part
  | .ldl _ _ | .addl _ _ | .ld _ _ | .or _ _ | .and _ _ | .xor _ _ | .addc _ _ | .subc _ _ | .shrc _ _ | .subn _ _
  | .shlc _ _ | .rnd _ _ | .movdt _ => [.regs]
  | .seq _ _ | .snelit _ _ | .se _ _ | .sne _ _ | .jpl _ => [.pc]
  | .ldi _ | .addi _ | .ldspr _ => [.idx]
  | .cls => [.fb]
  | .jp _ => [.halted, .pc]
  | .ldkb _ => [.regs, .pc]
  | .lddt _ => [.dt]
  | .ldst _ => [.st]
  | .skp _ | .sknp _ => [.pc, .fault, .result]
  | .ret | .call _ => [.stack, .pc, .fault, .result]
  | .drw _ _ _ => [.fb, .regs, .fault, .result]
  | .ldbcd _ => [.mem, .fault, .result]
  | .pushreg _ => [.mem, .idx, .fault, .result]
  | .popreg _ => [.regs, .idx, .fault, .result]

/-- The spec lists an instruction among the writers of every part it writes. -/
theorem mem_writersOf_of_mem_partsWrittenBy (i : Instr) : ∀ p ∈ partsWrittenBy i, i.mnemonic ∈ writersOf p := by
  cases i <;> simp [partsWrittenBy, Instr.mnemonic, writersOf]

/-- The frame of the execute phase: an instruction changes only the parts it writes. -/
theorem exec_changesOnly {i : Instr} {s t : State} (h : exec i s = .next t) : ChangesOnly (partsWrittenBy i) s t := by
  cases i with
  | ldl _ _ | addl _ _ | ld _ _ | or _ _ | and _ _ | xor _ _ | addc _ _ | subc _ _ | shrc _ _ | subn _ _ | shlc _ _
  | rnd _ _ | movdt _ => cases h; exact changesOnly_v _
  | seq _ _ | snelit _ _ | se _ _ | sne _ _ | jpl _ => cases h; exact changesOnly_pc _
  | ldi _ | addi _ | ldspr _ => cases h; exact changesOnly_idx _
  | cls => cases h; exact changesOnly_fb _
  | jp _ => cases h; exact (changesOnly_halted _).trans (changesOnly_pc _)
  | ldkb _ => cases h; exact (changesOnly_v _).trans (changesOnly_pc _)
  | lddt _ => cases h; exact changesOnly_dt _
  | ldst _ => cases h; exact changesOnly_st _
  | skp _ | sknp _ => exact changesOnly_of_orRaise (fun _ _ => changesOnly_pc _) h
  | ret => exact changesOnly_of_orRaise (fun _ => changesOnly_of_popToPc) h
  | call _ => exact changesOnly_of_orRaise (fun _ hpush => (changesOnly_of_push hpush).trans (changesOnly_pc _)) h
  | drw _ _ _ => exact changesOnly_of_orRaise (fun _ _ => (changesOnly_fb _).trans (changesOnly_v _)) h
  | ldbcd _ => exact changesOnly_of_orRaise (fun _ _ => changesOnly_mem _) h
  | pushreg _ => exact changesOnly_of_orRaise (fun _ _ => (changesOnly_mem _).trans (changesOnly_idx _)) h
  | popreg _ => exact changesOnly_of_orRaise (fun _ _ => (changesOnly_v _).trans (changesOnly_idx _)) h

/-- Settles O41: by the frame of the instruction, whose parts are among those that name it as a writer. -/
theorem eachPartHasOnlyItsWriters : Obligations.EachPartHasOnlyItsWriters :=
  fun i _ _ p h hp => exec_changesOnly h p fun hw => hp (mem_writersOf_of_mem_partsWrittenBy i p hw)

/-! ### Registers (R101, R102) -/

section Registers
variable {s t : State} {x y k : Reg}

theorem State.reg_setRegWithFlag_other (a f : Byte) (hx : k ≠ x) (hf : k ≠ Reg.vf) :
    (s.setRegWithFlag x a f).reg k = s.reg k := by
  simp [State.reg_setRegWithFlag, hx, hf]

theorem State.reg_setRegLogic_other (a : Byte) (hx : k ≠ x) (hf : s.quirks.vfReset = true → k ≠ Reg.vf) :
    (s.setRegLogic x a).reg k = s.reg k := by
  rw [State.reg_setRegLogic, if_neg fun hvf => hf hvf.1 hvf.2, if_neg hx]

theorem State.loadAtI_length {n : Nat} {bs : List Byte} (h : s.loadAtI n = .ok bs) : bs.length = n := by
  obtain ⟨_, hl⟩ | ⟨_, _, hl⟩ := loadBytes_cases s.mem s.idx.toNat n
  · obtain rfl := by simpa [State.loadAtI, hl] using h
    simp
  · simp [State.loadAtI, hl] at h

theorem reg_of_raise {c : ErrorCause} (h : raise c s = .next t) : t.reg k = s.reg k :=
  changesOnly_of_raise h .regs (by decide) k

/-- LDKB changes no register but its own, with a key event or without. -/
theorem execLdkb_reg_other (h : execLdkb x s = .next t) (hk : k ≠ x) : t.reg k = s.reg k := by
  cases h
  cases s.latch.keyEvent with
  | none => rfl
  | some key => exact State.reg_setReg_other s (key.setWidth 8) hk

/-- DRW changes no register but VF. -/
theorem execDrw_reg_other {n : Nibble} (h : execDrw x y n s = .next t) (hk : k ≠ Reg.vf) : t.reg k = s.reg k := by
  obtain ⟨_, _, rfl⟩ | ⟨_, hc⟩ := orRaise_next_cases h
  · exact State.reg_setReg_other _ _ hk
  · exact reg_of_raise hc

/-- POPREG changes no register beyond V0..=Vx. -/
theorem execPopreg_reg_beyond (h : execPopreg x s = .next t) (hk : x.toNat < k.toNat) : t.reg k = s.reg k := by
  obtain ⟨bs, hbs, rfl⟩ | ⟨_, hc⟩ := orRaise_next_cases h
  · have hlen : bs.length = x.toNat + 1 := State.loadAtI_length hbs
    have hnone : bs[k.toNat]? = none := List.getElem?_eq_none (by omega)
    simp [State.reg_setRegBlock, hnone]
  · exact reg_of_raise hc

end Registers

/-- Settles O42: a register that no write of the instruction names reads as before; an instruction with no destination
writes no register at all. -/
theorem registersChangeOnlyAsListed : Obligations.RegistersChangeOnlyAsListed := by
  intro i s t k h hk
  cases i with
  | ldl _ _ | addl _ _ | ld _ _ | rnd _ _ | movdt _ =>
    cases h
    exact State.reg_setReg_other s _ (by simpa [writesReg] using hk)
  | or x _ | and x _ | xor x _ =>
    obtain ⟨hx, hf⟩ : k ≠ x ∧ (s.quirks.vfReset = true → k ≠ Reg.vf) := by simpa [writesReg] using hk
    cases h
    exact State.reg_setRegLogic_other _ hx hf
  | addc x _ | subc x _ | shrc x _ | subn x _ | shlc x _ =>
    obtain ⟨hx, hf⟩ : k ≠ x ∧ k ≠ Reg.vf := by simpa [writesReg] using hk
    cases h
    exact State.reg_setRegWithFlag_other _ _ hx hf
  | drw _ _ _ => exact execDrw_reg_other h (by simpa [writesReg] using hk)
  | ldkb _ => exact execLdkb_reg_other h (by simpa [writesReg] using hk)
  | popreg _ => exact execPopreg_reg_beyond h (by simpa [writesReg] using hk)
  | _ => exact exec_changesOnly h .regs (by simp [partsWrittenBy]) k

/-! ### The halted flag (R125, R501) -/

theorem jumpTarget_eq_iff (nnn : Addr) (w : Word) : jumpTarget nnn = w ↔ nnn.toNat = w.toNat := by
  have := nnn.isLt
  rw [← BitVec.toNat_inj, jumpTarget, BitVec.toNat_setWidth, Nat.mod_eq_of_lt (by omega)]

/-- The instruction is JP to the address it was fetched from. -/
def jumpsToItself (i : Instr) (s : State) : Prop := ∃ nnn : Addr, i = .jp nnn ∧ nnn.toNat = s.latch.pcInstr.toNat

/-- All the execute phase can do to `halted`: set it in JP to its own address, else leave it. -/
theorem exec_halted_cases {i : Instr} {s t : State} (h : exec i s = .next t) :
    (jumpsToItself i s ∧ t.halted = true) ∨ (¬ jumpsToItself i s ∧ t.halted = s.halted) := by
  cases i with
  | jp nnn =>
    cases h
    by_cases hself : nnn.toNat = s.latch.pcInstr.toNat
    · exact .inl ⟨⟨nnn, rfl, hself⟩, by simp [(jumpTarget_eq_iff _ _).2 hself]⟩
    · exact .inr ⟨by simpa [jumpsToItself] using hself, by simp [jumpTarget_eq_iff, hself]⟩
  | _ => exact .inr ⟨by simp [jumpsToItself], exec_changesOnly h .halted (by simp [partsWrittenBy])⟩

/-- Settles O44: of the two things the execute phase can do to `halted`, only the self-jump changes it. -/
theorem onlySelfJumpSetsHalted : Obligations.OnlySelfJumpSetsHalted := by
  intro i s t h hne
  obtain ⟨hself, ht⟩ | ⟨_, ht⟩ := exec_halted_cases h
  · exact ⟨ht, hself⟩
  · exact absurd ht hne

/-! ### What a step does around the execute phase -/

theorem mapNext_eq_next {f : State → State} {o : StepOutcome} {t : State} :
    mapNext f o = .next t ↔ ∃ u, o = .next u ∧ f u = t := by
  cases o <;> simp [mapNext]

/-- A step that answers either raises before the execute phase, changing nothing after the sampling but pc, the error's
record and the latch, or runs the decoded instruction and then ends (R400). -/
theorem step_next_cases {s t : State} (h : step s = .next t) :
    ((∀ d, s.pc.toNat ≤ 0xFFE → decode s.fetchWord ≠ .ok d) ∧
      ChangesOnly [.pc, .fault, .result, .latch] s.atFetch t) ∨
    (s.pc.toNat ≤ 0xFFE ∧ ∃ d u, decode s.fetchWord = .ok d ∧ exec d s.atFetch.advance = .next u ∧
      t = (State.commit d u).release) := by
  have hf : s.fault = none := by
    cases hf : s.fault with
    | none => rfl
    | some e => simp [step_faulted hf] at h
  obtain ⟨hpc, he⟩ | ⟨_, e, hd, he⟩ | ⟨hpc, d, hd, he⟩ := step_cases hf
  · obtain ⟨u, hu, rfl⟩ := mapNext_eq_next.1 (he ▸ h)
    have hframe := (changesOnly_of_raise hu).trans (changesOnly_latch Latch.idle)
    exact .inl ⟨fun _ hle => by omega, hframe.mono (List.subset_cons_self _ _)⟩
  · obtain ⟨u, hu, rfl⟩ := mapNext_eq_next.1 (he ▸ h)
    have hframe := (changesOnly_of_raise hu).trans (changesOnly_latch Latch.idle)
    exact .inl ⟨fun d _ => by simp [hd], (changesOnly_pc _).trans hframe⟩
  · obtain ⟨_, hcommit, rfl⟩ := mapNext_eq_next.1 (he ▸ h)
    obtain ⟨u, hu, rfl⟩ := mapNext_eq_next.1 hcommit
    exact .inr ⟨hpc, d, u, hd, hu, rfl⟩

/-- Settles O38: neither the execute phase nor an error before it writes a key flag or a quirk. -/
theorem keysAndQuirksAreTheHosts : Obligations.KeysAndQuirksAreTheHosts := by
  intro s t h
  obtain ⟨_, hframe⟩ | ⟨_, d, u, _, hu, rfl⟩ := step_next_cases h
  · have hkeys : t.keys = s.atFetch.keys := hframe .keys (by decide)
    have hquirks : t.quirks = s.atFetch.quirks := hframe .quirks (by decide)
    simp [hkeys, hquirks]
  · have hkeys : u.keys = s.atFetch.advance.keys := exec_changesOnly hu .keys (by cases d <;> simp [partsWrittenBy])
    have hquirks : u.quirks = s.atFetch.advance.quirks :=
      exec_changesOnly hu .quirks (by cases d <;> simp [partsWrittenBy])
    simp [hkeys, hquirks]

/-- The coming step jumps to itself exactly when the instruction it decodes does in its execute phase. -/
theorem selfJumps_iff {s : State} {d : Instr} (hpc : s.pc.toNat ≤ 0xFFE) (hd : decode s.fetchWord = .ok d) :
    s.selfJumps ↔ jumpsToItself d s.atFetch.advance := by
  simp [State.selfJumps, jumpsToItself, hpc, hd]

/-- Settles O51: an error before the execute phase leaves `halted` as the host's turn left it; so does every instruction
but the self-jump, which sets it. -/
theorem haltedIsTheHostsButForSelfJump : Obligations.HaltedIsTheHostsButForSelfJump := by
  intro s t h
  obtain ⟨hno, hframe⟩ | ⟨hpc, d, u, hd, hu, rfl⟩ := step_next_cases h
  · have hhalted : t.halted = s.atFetch.halted := hframe .halted (by decide)
    exact ⟨fun ⟨hpc, nnn, hd, _⟩ => absurd hd (hno (.jp nnn) hpc), fun _ => by simp [hhalted]⟩
  · rw [selfJumps_iff hpc hd]
    obtain ⟨hself, ht⟩ | ⟨hself, ht⟩ := exec_halted_cases hu
    · exact ⟨fun _ => ht, fun hn => absurd hself hn⟩
    · exact ⟨fun hs => absurd hs hself, fun _ => by simp [ht]⟩

/-! ### Who reads the sampled inputs (R152, R154, R409) -/

/-- The state with another latch. -/
def State.setLatch (l : Latch) (s : State) : State := { s with latch := l }

section Inputs
variable {s : State} {l : Latch}

theorem popToPc_setLatch (s : State) (l : Latch) : (s.setLatch l).popToPc = s.popToPc.map (State.setLatch l) := by
  by_cases h : 0 < s.sp.val <;> simp [State.popToPc, State.setLatch, Except.map, h]

theorem push_setLatch (s : State) (l : Latch) (w : Word) :
    (s.setLatch l).push w = (s.push w).map (State.setLatch l) := by
  by_cases h : s.sp.val < 16 <;> simp [State.push, State.setLatch, Except.map, h]

/-- Of the latch, an error's record reads `pc_instr` alone (R1103). -/
theorem raise_setLatch (hl : l.pcInstr = s.latch.pcInstr) (c : ErrorCause) :
    raise c (s.setLatch l) = mapNext (State.setLatch l) (raise c s) := by
  simp [raise, mapNext, State.errorRecord, State.setLatch, hl]

/-- A checked operation commutes with a change of inputs if its check and its continuation do: g says what the change makes
of the value checked. -/
theorem orRaise_setLatch {α : Type} {r r' : Except ErrorCause α} {k k' : α → State} {g : α → α}
    (hl : l.pcInstr = s.latch.pcInstr) (hr : r' = r.map g) (hk : ∀ a, k' (g a) = (k a).setLatch l) :
    orRaise r' (s.setLatch l) k' = mapNext (State.setLatch l) (orRaise r s k) := by
  subst hr
  cases r with
  | ok a => simp [orRaise, mapNext, Except.map, hk]
  | error c => exact raise_setLatch hl c

/-- A change of the sampled inputs that the instruction does not read changes nothing in what its execute phase does. -/
theorem exec_setLatch {i : Instr} (hl : l.pcInstr = s.latch.pcInstr)
    (hkey : l.keyEvent = s.latch.keyEvent ∨ i.mnemonic ≠ "LDKB")
    (hrand : l.randByte = s.latch.randByte ∨ i.mnemonic ≠ "RND") :
    exec i (s.setLatch l) = mapNext (State.setLatch l) (exec i s) := by
  cases i with
  | jp _ => simp [exec, execJp, mapNext, State.setLatch, State.setPc, hl]
  | rnd _ _ =>
    have hr : l.randByte = s.latch.randByte := by simpa [Instr.mnemonic] using hrand
    simp [exec, execRnd, mapNext, State.setLatch, State.setReg, hr]
  | ldkb _ =>
    have hk : l.keyEvent = s.latch.keyEvent := by simpa [Instr.mnemonic] using hkey
    simp [exec, execLdkb, mapNext, State.setLatch, State.setReg, hk]
  | ret => exact orRaise_setLatch hl (popToPc_setLatch s l) fun _ => rfl
  | call _ => exact orRaise_setLatch hl (push_setLatch s l s.pc) fun _ => rfl
  | drw _ _ _ | skp _ | sknp _ | ldbcd _ | pushreg _ | popreg _ =>
    exact orRaise_setLatch (g := id) hl (congrFun Except.map_id _).symm fun _ => rfl
  | _ => rfl

end Inputs

/-- Settles O45: the new latch keeps `pc_instr`, and differs at most in inputs that the instruction does not read. -/
theorem inputsReadOnlyByTheirInstructions : Obligations.InputsReadOnlyByTheirInstructions :=
  fun _ s k r hk hr => exec_setLatch (l := ⟨s.latch.pcInstr, k, r⟩) rfl hk hr

/-! ### The frame-buffer port (R145, R150) -/

/-- The port shows the rows one after the other. -/
theorem State.fbOut_eq_flatten (s : State) : s.fbOut = s.fb.flatten.toList := by
  simp only [State.fbOut, List.flatMap, Vector.flatten, Vector.toList, Array.toList_flatten, Array.toList_map,
    List.map_map]
  rfl

/-- Settles O28: index y*64 + x of the rows joined is column x of row y. -/
theorem frameBufferPortIsRowMajor : Obligations.FrameBufferPortIsRowMajor := by
  intro s
  rw [State.fbOut_eq_flatten]
  refine ⟨by simp, fun px py hx hy => ?_⟩
  have hi : py * 64 + px < 32 * 64 := by omega
  have hrow : (py * 64 + px) / 64 = py := by omega
  have hcol : (py * 64 + px) % 64 = px := by omega
  rw [Vector.getElem?_toList, Vector.getElem?_eq_getElem hi, Vector.getElem_flatten]
  simp [FrameBuffer.pixel, hx, hy, hrow, hcol]

/-! ### Construction (R1201, R1203) -/

section Boot
variable {font : Vector Byte 80} {program : List Byte} {q : Quirks}

/-- The memory image, byte by byte: the program's byte, else FONT's, else the reset contents. -/
theorem read_bootImage (h : program.length ≤ 0xC00) (a : Nat) : (bootImage font program).read a =
    if 0x200 ≤ a then (program[a - 0x200]?).getD ((font.toList[a]?).getD (unlistedByte a))
    else (font.toList[a]?).getD (unlistedByte a) := by
  have hfont : 0x000 + font.toList.length ≤ 0x1000 := by simp
  rw [bootImage, Memory.read_place (by omega) (Memory.wf_place hfont Memory.wf_nil),
    Memory.read_place hfont Memory.wf_nil]
  simp [Memory.read]

theorem read_bootImage_font (h : program.length ≤ 0xC00) (k : Fin 80) :
    (bootImage font program).read k.val = font[k.val] := by
  have hk : ¬ 0x200 ≤ k.val := by omega
  simp [read_bootImage h, hk]

theorem read_bootImage_program (h : program.length ≤ 0xC00) (k : Fin program.length) :
    (bootImage font program).read (0x200 + k.val) = program[k.val] := by
  simp [read_bootImage h]

theorem read_bootImage_elsewhere (h : program.length ≤ 0xC00) {a : Nat} (hfont : 0x50 ≤ a)
    (hprog : a < 0x200 ∨ 0x200 + program.length ≤ a) : (bootImage font program).read a = 0#8 := by
  have hf : font.toList[a]? = none := List.getElem?_eq_none (by simpa using hfont)
  have hu : unlistedByte a = 0#8 := if_neg (by omega)
  rw [read_bootImage h, hf, hu]
  split
  · have hp : program[a - 0x200]? = none := List.getElem?_eq_none (by omega)
    simp [hp]
  · rfl

theorem construct_of_le (h : program.length ≤ 0xC00) :
    State.construct font program q = .ok { State.reset with quirks := q, mem := bootImage font program } :=
  if_pos (decide_eq_true h)

theorem construct_of_lt (h : 0xC00 < program.length) :
    State.construct font program q = .error (.programTooLong program.length) := by
  have hfit : programFits program = false := decide_eq_false (Nat.not_le.2 h)
  simp [State.construct, hfit]

end Boot

theorem reset_reg (k : Reg) : State.reset.reg k = 0#8 := Vector.getElem_replicate _

/-- Settles O46: memory is the boot image, and the rest is reset but for the quirks. -/
theorem constructionGivesResetValues : Obligations.ConstructionGivesResetValues := by
  intro font program q
  exact ⟨fun h => ⟨_, construct_of_le h, read_bootImage_font h, read_bootImage_program h,
    fun _ => read_bootImage_elsewhere h, reset_reg, rfl, rfl, fun _ => Vector.getElem_replicate _, rfl, rfl, rfl, rfl, rfl,
    fun _ => Vector.getElem_replicate _, FrameBuffer.pixel_blank, rfl, rfl⟩, construct_of_lt⟩

end Sys2Proof.Machine

/-! SUPPORT. Proofs about memory (20_memory.md): one-byte accesses, the fetched word, a fetch beyond memory, a word placed at
pc, and code that a PUSHREG overwrites. -/

namespace Sys2Proof.Machine

/-! ### One byte (R206, R207, R220) -/

section OneByte
variable {m : Memory} {a : Nat}

theorem memRead_inside (h : a ≤ 0xFFF) : memRead m a = .ok (m.read a) := if_neg (by omega)

theorem memRead_outside (h : 0xFFF < a) : memRead m a = .error (.memoryOutOfBounds 0x1000) := if_pos h

theorem memWrite_inside (h : a ≤ 0xFFF) (b : Byte) : memWrite m a b = .ok (m.write a b) := if_neg (by omega)

theorem memWrite_outside (h : 0xFFF < a) (b : Byte) : memWrite m a b = .error (.memoryOutOfBounds 0x1000) := if_pos h

end OneByte

/-- Settles O23: by read after write over a canonical memory. -/
theorem oneByteAccesses : Obligations.OneByteAccesses := by
  intro m a b
  refine ⟨fun h => ⟨memRead_inside h, m.write a b, memWrite_inside h b, fun hm => ⟨?_, ?_, fun a' ha' => ?_⟩⟩,
    fun h => ⟨memRead_outside h, memWrite_outside h b⟩⟩
  · exact Memory.wf_write (by omega) hm
  · rw [memRead_inside h, Memory.read_write hm, if_pos rfl]
  · rw [Memory.read_write hm, if_neg ha']

/-! ### The fetched word (R202) -/

theorem fieldH_composeWord (hi lo : Byte) : fieldH (composeWord hi lo) = hi.extractLsb' 4 4 := by
  apply BitVec.eq_of_toNat_eq
  have := lo.isLt
  rw [fieldH_toNat, composeWord_toNat, BitVec.extractLsb'_toNat, Nat.shiftRight_eq_div_pow]
  omega

theorem fieldKK_composeWord (hi lo : Byte) : fieldKK (composeWord hi lo) = lo := by
  apply BitVec.eq_of_toNat_eq
  have := lo.isLt
  rw [fieldKK_toNat, composeWord_toNat]
  omega

/-- Settles O32: the fetched word is the composition of the two bytes, whose fields are known. -/
theorem fetchIsBigEndian : Obligations.FetchIsBigEndian :=
  fun _ => ⟨composeWord_toNat _ _, fieldH_composeWord _ _, fieldKK_composeWord _ _⟩

/-! ### A fetch beyond memory (R204, R403) -/

/-- What a step has changed when it fetches: the host's turn, the tick and the samples (R400). -/
theorem changesOnly_atFetch (s : State) : ChangesOnly [.dt, .st, .keys, .halted, .latch, .host] s s.atFetch := by
  intro p hp
  cases p <;> simp [Unchanged] at hp ⊢

/-- A step that ends in a raised error: the error recorded at `pc_instr` and the latch released (R1103, R1110). -/
theorem release_raise (c : ErrorCause) (s : State) :
    ∃ t, mapNext State.release (raise c s) = .next t ∧ t.fault = some ⟨c, s.latch.pcInstr⟩ ∧
      t.result = some (.err ⟨c, s.latch.pcInstr⟩) ∧ t.latch = Latch.idle ∧
      ChangesOnly [.fault, .result, .latch] s t := by
  obtain ⟨u, hu, hfault, hresult, hframe⟩ := raise_raises c s
  exact ⟨u.release, by rw [hu]; rfl, hfault, hresult, rfl, hframe.trans (changesOnly_latch _)⟩

theorem step_of_fetch_beyond {s : State} (hf : s.fault = none) (hpc : 0xFFE < s.pc.toNat) :
    step s = mapNext State.release (raise (.fetchOutOfBounds s.pc) s.atFetch) := by
  obtain ⟨_, hs⟩ | ⟨hle, _⟩ | ⟨hle, _⟩ := step_cases hf
  · exact hs
  · omega
  · omega

/-- Settles O34: the step raises in the state in which it fetches, where the host's turn and the tick are done and pc is
not advanced. -/
theorem fetchBeyondMemoryRaises : Obligations.FetchBeyondMemoryRaises := by
  intro s hf hpc
  obtain ⟨t, ht, hfault, hresult, hlatch, hframe⟩ := release_raise (.fetchOutOfBounds s.pc) s.atFetch
  have hdt : t.dt = s.atFetch.dt := hframe .dt (by decide)
  have hst : t.st = s.atFetch.st := hframe .st (by decide)
  have hkeys : t.keys = s.atFetch.keys := hframe .keys (by decide)
  have hhalted : t.halted = s.atFetch.halted := hframe .halted (by decide)
  obtain ⟨hscript, hdrawn⟩ : t.script = s.atFetch.script ∧ t.drawn = s.atFetch.drawn := hframe .host (by decide)
  refine ⟨t, (step_of_fetch_beyond hf hpc).trans ht, by simpa using hfault, by simpa using hresult,
    hdt ▸ s.atFetch_dt_toNat, hst ▸ s.atFetch_st_toNat, hkeys.trans s.atFetch_keys, hhalted.trans s.atFetch_halted,
    hlatch, hscript.trans s.atFetch_script, hdrawn.trans s.atFetch_drawn, ?_⟩
  exact ((changesOnly_atFetch s).trans hframe).mono (by decide)

/-! ### Bytes placed -/

/-- A byte placed is the byte read at its address. -/
theorem read_place_add {m : Memory} {base k : Nat} {bs : List Byte} {b : Byte} (hm : m.wf = true)
    (hfit : base + bs.length ≤ 0x1000) (hb : bs[k]? = some b) : (m.place base bs).read (base + k) = b := by
  simp [Memory.read_place hfit hm, hb]

/-- Bytes placed change no byte outside their range. -/
theorem memOutside_place {s : State} {base : Nat} {bs : List Byte} (hm : s.mem.wf = true)
    (hfit : base + bs.length ≤ 0x1000) : MemOutside base bs.length s { s with mem := s.mem.place base bs } := by
  intro a ha
  rw [Memory.read_place hfit hm]
  split
  · have hnone : bs[a - base]? = none := List.getElem?_eq_none (by omega)
    simp [hnone]
  · rfl

/-! ### A word placed at pc (R202; notes/assumptions/17.md) -/

@[simp] theorem tableWord_of_toNat (w : Word) : tableWord 16 w.toNat = w := by
  simp [tableWord, Nat.mod_eq_of_lt w.isLt]

/-- The host's entry decodes a word as the fetch does. -/
theorem decodeTableWord_eq_toOption (w : Word) : decodeTableWord 16 w.toNat = (decode w).toOption := by
  simp only [decodeTableWord, decodeBytes, tableWord_of_toNat, composeWord_bytes]
  cases decode w <;> rfl

section Placed
variable {s : State} {w : Word}

/-- A word at a pc that can be fetched from lies in memory (R204). -/
theorem wordBytes_fits (hpc : s.pc.toNat ≤ 0xFFE) : s.pc.toNat + (wordBytes w).length ≤ 0x1000 := by
  simp [wordBytes]
  omega

theorem withFetchWord_of_canFetch (hpc : s.pc.toNat ≤ 0xFFE) :
    s.withFetchWord 16 w.toNat = { s with mem := s.mem.place s.pc.toNat (wordBytes w) } := by
  simp [State.withFetchWord, State.placeWord, State.canFetch, hpc]

/-- The word whose bytes are placed at pc is the word fetched. -/
theorem fetchWord_place_wordBytes (hm : s.mem.wf = true) (hpc : s.pc.toNat ≤ 0xFFE) :
    State.fetchWord { s with mem := s.mem.place s.pc.toNat (wordBytes w) } = w := by
  have hfit := wordBytes_fits (w := w) hpc
  have hhi : (s.mem.place s.pc.toNat (wordBytes w)).read s.pc.toNat = highByte w :=
    read_place_add (k := 0) hm hfit rfl
  have hlo : (s.mem.place s.pc.toNat (wordBytes w)).read (s.pc.toNat + 1) = lowByte w :=
    read_place_add (k := 1) hm hfit rfl
  rw [State.fetchWord, hhi, hlo, composeWord_bytes]

end Placed

/-- Settles O50: by the laws of placed bytes, for the two bytes of the word at pc. -/
theorem placedWordIsFetched : Obligations.PlacedWordIsFetched := by
  intro s w hm hpc
  have hfit := wordBytes_fits (w := w) hpc
  rw [withFetchWord_of_canFetch hpc]
  refine ⟨fetchWord_place_wordBytes hm hpc, Memory.wf_place hfit hm, fun i => ?_, memOutside_place hm hfit,
    changesOnly_mem _⟩
  rw [decodeTableWord_eq_toOption]
  cases decode w <;> simp [Except.toOption]

/-! ### Code that a PUSHREG overwrites (R223, R804) -/

/-- The step of a decoded instruction is its execute phase, the result and the release of the latch (R400). -/
theorem step_of_decode {s : State} {d : Instr} (hf : s.fault = none) (hpc : s.pc.toNat ≤ 0xFFE)
    (hd : decode s.fetchWord = .ok d) :
    step s = mapNext State.release (mapNext (State.commit d) (exec d s.atFetch.advance)) := by
  obtain ⟨hlt, _⟩ | ⟨_, e, he, _⟩ | ⟨_, d', hd', hs⟩ := step_cases hf
  · omega
  · simp [hd] at he
  · obtain rfl : d = d' := by simpa [hd] using hd'
    exact hs

section PushReg
variable {s : State} {x k : Reg}

/-- PUSHREG stores its block where it fits. -/
theorem exec_pushreg_of_fits (hfit : s.idx.toNat + x.toNat ≤ 0xFFF) :
    exec (.pushreg x) s = .next (State.advanceIdx { s with mem := s.mem.place s.idx.toNat (s.regBlock x) } x) := by
  obtain ⟨_, hs⟩ | ⟨_, hlt, _⟩ := storeBytes_cases s.mem s.idx.toNat (s.regBlock x)
  · simp only [exec, execPushreg, State.storeAtI, hs, orRaise]
  · simp at hlt
    omega

/-- A stored block reads back as its registers. -/
theorem read_place_regBlock (hm : s.mem.wf = true) (hfit : s.idx.toNat + x.toNat ≤ 0xFFF) (hk : k.toNat ≤ x.toNat) :
    (s.mem.place s.idx.toNat (s.regBlock x)).read (s.idx.toNat + k.toNat) = s.reg k :=
  read_place_add hm (by simp; omega) (s.regBlock_getElem x k hk)

@[simp] theorem State.atFetch_advance_regBlock (s : State) (x : Reg) :
    s.atFetch.advance.regBlock x = s.regBlock x := by
  simp [State.regBlock, State.atFetch, State.atStrobe]

/-- A step of a PUSHREG whose block fits ends with Ok(PUSHREG), pc at the next word, and the block stored (R405, R408). -/
theorem step_pushreg_of_fits (hf : s.fault = none) (hpc : s.pc.toNat ≤ 0xFFE)
    (hd : decode s.fetchWord = .ok (.pushreg x)) (hfit : s.idx.toNat + x.toNat ≤ 0xFFF) :
    ∃ t, step s = .next t ∧ t.result = some (.ok (.pushreg x)) ∧ t.pc = s.pc + 2#16 ∧
      t.mem = s.mem.place s.idx.toNat (s.regBlock x) := by
  have hexec := exec_pushreg_of_fits (s := s.atFetch.advance) (x := x) (by simpa using hfit)
  refine ⟨_, by rw [step_of_decode hf hpc hd, hexec]; rfl, ?_, ?_, ?_⟩
  · simp [State.commit, hf]
  · simp
  · simp

end PushReg

/-- Settles O24: the step leaves pc at the next word, whose two bytes read back as the registers stored. -/
theorem storedBytesAreFetchedNext : Obligations.StoredBytesAreFetchedNext := by
  intro s x k k' hf hm hpc hd hfit hk hk' hkpc hkk'
  obtain ⟨t, ht, hresult, htpc, htmem⟩ := step_pushreg_of_fits hf hpc hd hfit
  have hhi : t.pc.toNat = s.idx.toNat + k.toNat := by
    rw [htpc]
    bv_omega
  have hlo : t.pc.toNat + 1 = s.idx.toNat + k'.toNat := by omega
  refine ⟨t, ht, hresult, ?_⟩
  rw [State.fetchWord, hlo, hhi, htmem, read_place_regBlock hm hfit hk, read_place_regBlock hm hfit hk']

end Sys2Proof.Machine

/-! SUPPORT. Proofs about the encoding (30_encoding.md): a word is its fields, decode after encode, the words of
every row by its format, encode after decode, and the decoder against the opcode table. -/

namespace Sys2Proof.Machine

/-! ### A word is its fields (R301, R302) -/

section Fields
variable {w : Word} {h : Nibble}

@[simp] theorem wordA_fields (hh : fieldH w = h) : wordA h (fieldNNN w) = w := by
  apply BitVec.eq_of_toNat_eq
  rw [wordA_toNat, ← hh, fieldH_toNat, fieldNNN_toNat]
  have := w.isLt
  omega

@[simp] theorem wordXK_fields (hh : fieldH w = h) : wordXK h (fieldX w) (fieldKK w) = w := by
  apply BitVec.eq_of_toNat_eq
  rw [wordXK_toNat, ← hh, fieldH_toNat, fieldX_toNat, fieldKK_toNat]
  have := w.isLt
  omega

@[simp] theorem wordXYN_fields (hh : fieldH w = h) : wordXYN h (fieldX w) (fieldY w) (fieldN w) = w := by
  apply BitVec.eq_of_toNat_eq
  rw [wordXYN_toNat, ← hh, fieldH_toNat, fieldX_toNat, fieldY_toNat, fieldN_toNat]
  have := w.isLt
  omega

/-- The assembler's 0 in the nibble that SE and SNE ignore (R308, R314). -/
theorem wordXYN_fields_zero (hh : fieldH w = h) : wordXYN h (fieldX w) (fieldY w) 0#4 = w &&& 0xFFF0#16 := by
  subst hh
  apply BitVec.eq_of_getLsbD_eq
  intro i hi
  simp only [wordXYN, fieldH, fieldX, fieldY, nibble, BitVec.getLsbD_and, BitVec.getLsbD_append,
    BitVec.getLsbD_extractLsb']
  interval_cases i <;> simp

end Fields

/-! ### Decode after encode -/

/-- The decoder reads the operands of an instruction off its word: by format, the family from the high nibble, then in
the families 0x8, 0xE and 0xF the sub-operation (R302, R305). -/
theorem decode_encode (i : Instr) : decode (encode i) = .ok i := by
  cases i with
  | cls | ret => rfl
  | jp _ | call _ | ldi _ | jpl _ => simp [encode, decode]
  | seq _ _ | snelit _ _ | ldl _ _ | addl _ _ | rnd _ _ => simp [encode, decode]
  | se _ _ | sne _ _ | drw _ _ _ => simp [encode, decode]
  | ld _ _ | or _ _ | and _ _ | xor _ _ | addc _ _ | subc _ _ | shrc _ _ | subn _ _ | shlc _ _ =>
    simp [encode, decode, decodeFamily8]
  | skp _ | sknp _ => simp [encode, decode, decodeFamilyE]
  | movdt _ | ldkb _ | lddt _ | ldst _ | addi _ | ldspr _ | ldbcd _ | pushreg _ | popreg _ =>
    simp [encode, decode, decodeFamilyF]

/-- Settles O2: the word decodes to the instruction, and its two bytes compose to the word. -/
theorem decodeOfEncodeIsIdentity : Obligations.DecodeOfEncodeIsIdentity :=
  fun i => ⟨decode_encode i, by rw [decodeBytes, composeWord_bytes, decode_encode]⟩

/-! ### The words of a row, by format (R302, R310) -/

section Formats
variable {h n : Nibble} {kk : Byte}

theorem fieldH_of_and_F000 {w : Word} (hw : w &&& 0xF000#16 = wordA h 0#12) : fieldH w = h := by
  simpa [and_F000] using congrArg fieldH hw

theorem fields_of_and_F00F {w : Word} (hw : w &&& 0xF00F#16 = wordXYN h 0#4 0#4 n) : fieldH w = h ∧ fieldN w = n :=
  ⟨by simpa [and_F00F] using congrArg fieldH hw, by simpa [and_F00F] using congrArg fieldN hw⟩

theorem fields_of_and_F0FF {w : Word} (hw : w &&& 0xF0FF#16 = wordXK h 0#4 kk) : fieldH w = h ∧ fieldKK w = kk :=
  ⟨by simpa [and_F0FF] using congrArg fieldH hw, by simpa [and_F0FF] using congrArg fieldKK hw⟩

/-- A word that is the word of an instruction decodes to it. -/
theorem decode_of_encode_eq {i : Instr} {w : Word} (hi : encode i = w) : decode w = .ok i := hi ▸ decode_encode i

theorem decodesAs_formatZ {i : Instr} {p : Word} (hi : encode i = p) : DecodesAs p 0xFFFF#16 fun _ => i := by
  intro w hw
  exact decode_of_encode_eq (hi.trans (hw.symm.trans BitVec.and_allOnes))

theorem decodesAs_formatA {c : Addr → Instr} (hc : ∀ nnn, encode (c nnn) = wordA h nnn) :
    DecodesAs (wordA h 0#12) 0xF000#16 fun w => c (fieldNNN w) :=
  fun _ hw => decode_of_encode_eq ((hc _).trans (wordA_fields (fieldH_of_and_F000 hw)))

theorem decodesAs_formatXK {c : Reg → Byte → Instr} (hc : ∀ x kk, encode (c x kk) = wordXK h x kk) :
    DecodesAs (wordA h 0#12) 0xF000#16 fun w => c (fieldX w) (fieldKK w) :=
  fun _ hw => decode_of_encode_eq ((hc _ _).trans (wordXK_fields (fieldH_of_and_F000 hw)))

theorem decodesAs_formatXYN {c : Reg → Reg → Nibble → Instr} (hc : ∀ x y n, encode (c x y n) = wordXYN h x y n) :
    DecodesAs (wordA h 0#12) 0xF000#16 fun w => c (fieldX w) (fieldY w) (fieldN w) :=
  fun _ hw => decode_of_encode_eq ((hc _ _ _).trans (wordXYN_fields (fieldH_of_and_F000 hw)))

theorem decodesAs_formatXYS {c : Reg → Reg → Instr} (hc : ∀ x y, encode (c x y) = wordXYN h x y n) :
    DecodesAs (wordXYN h 0#4 0#4 n) 0xF00F#16 fun w => c (fieldX w) (fieldY w) := by
  intro w hw
  obtain ⟨hh, rfl⟩ := fields_of_and_F00F hw
  exact decode_of_encode_eq ((hc _ _).trans (wordXYN_fields hh))

theorem decodesAs_formatXS {c : Reg → Instr} (hc : ∀ x, encode (c x) = wordXK h x kk) :
    DecodesAs (wordXK h 0#4 kk) 0xF0FF#16 fun w => c (fieldX w) := by
  intro w hw
  obtain ⟨hh, rfl⟩ := fields_of_and_F0FF hw
  exact decode_of_encode_eq ((hc _).trans (wordXK_fields hh))

end Formats

/-! ### The row of every instruction (R310) -/

theorem decodesAs_cls : DecodesAs 0x00E0#16 0xFFFF#16 (fun _ => .cls) := decodesAs_formatZ rfl

theorem decodesAs_ret : DecodesAs 0x00EE#16 0xFFFF#16 (fun _ => .ret) := decodesAs_formatZ rfl

theorem decodesAs_jp : DecodesAs 0x1000#16 0xF000#16 (fun w => .jp (fieldNNN w)) :=
  decodesAs_formatA (h := 0x1#4) fun _ => rfl

theorem decodesAs_call : DecodesAs 0x2000#16 0xF000#16 (fun w => .call (fieldNNN w)) :=
  decodesAs_formatA (h := 0x2#4) fun _ => rfl

theorem decodesAs_seq : DecodesAs 0x3000#16 0xF000#16 (fun w => .seq (fieldX w) (fieldKK w)) :=
  decodesAs_formatXK (h := 0x3#4) fun _ _ => rfl

theorem decodesAs_snelit : DecodesAs 0x4000#16 0xF000#16 (fun w => .snelit (fieldX w) (fieldKK w)) :=
  decodesAs_formatXK (h := 0x4#4) fun _ _ => rfl

/-- SE's word may have any low nibble (R308), so this row goes by the decoder and not by the encoder. -/
theorem decodesAs_se : DecodesAs 0x5000#16 0xF000#16 (fun w => .se (fieldX w) (fieldY w)) :=
  fun w hw => by simp [decode, fieldH_of_and_F000 (h := 0x5#4) hw]

theorem decodesAs_ldl : DecodesAs 0x6000#16 0xF000#16 (fun w => .ldl (fieldX w) (fieldKK w)) :=
  decodesAs_formatXK (h := 0x6#4) fun _ _ => rfl

theorem decodesAs_addl : DecodesAs 0x7000#16 0xF000#16 (fun w => .addl (fieldX w) (fieldKK w)) :=
  decodesAs_formatXK (h := 0x7#4) fun _ _ => rfl

theorem decodesAs_ld : DecodesAs 0x8000#16 0xF00F#16 (fun w => .ld (fieldX w) (fieldY w)) :=
  decodesAs_formatXYS (h := 0x8#4) (n := 0x0#4) fun _ _ => rfl

theorem decodesAs_or : DecodesAs 0x8001#16 0xF00F#16 (fun w => .or (fieldX w) (fieldY w)) :=
  decodesAs_formatXYS (h := 0x8#4) (n := 0x1#4) fun _ _ => rfl

theorem decodesAs_and : DecodesAs 0x8002#16 0xF00F#16 (fun w => .and (fieldX w) (fieldY w)) :=
  decodesAs_formatXYS (h := 0x8#4) (n := 0x2#4) fun _ _ => rfl

theorem decodesAs_xor : DecodesAs 0x8003#16 0xF00F#16 (fun w => .xor (fieldX w) (fieldY w)) :=
  decodesAs_formatXYS (h := 0x8#4) (n := 0x3#4) fun _ _ => rfl

theorem decodesAs_addc : DecodesAs 0x8004#16 0xF00F#16 (fun w => .addc (fieldX w) (fieldY w)) :=
  decodesAs_formatXYS (h := 0x8#4) (n := 0x4#4) fun _ _ => rfl

theorem decodesAs_subc : DecodesAs 0x8005#16 0xF00F#16 (fun w => .subc (fieldX w) (fieldY w)) :=
  decodesAs_formatXYS (h := 0x8#4) (n := 0x5#4) fun _ _ => rfl

theorem decodesAs_shrc : DecodesAs 0x8006#16 0xF00F#16 (fun w => .shrc (fieldX w) (fieldY w)) :=
  decodesAs_formatXYS (h := 0x8#4) (n := 0x6#4) fun _ _ => rfl

theorem decodesAs_subn : DecodesAs 0x8007#16 0xF00F#16 (fun w => .subn (fieldX w) (fieldY w)) :=
  decodesAs_formatXYS (h := 0x8#4) (n := 0x7#4) fun _ _ => rfl

theorem decodesAs_shlc : DecodesAs 0x800E#16 0xF00F#16 (fun w => .shlc (fieldX w) (fieldY w)) :=
  decodesAs_formatXYS (h := 0x8#4) (n := 0xE#4) fun _ _ => rfl

/-- SNE's word may have any low nibble (R308), so this row goes by the decoder and not by the encoder. -/
theorem decodesAs_sne : DecodesAs 0x9000#16 0xF000#16 (fun w => .sne (fieldX w) (fieldY w)) :=
  fun w hw => by simp [decode, fieldH_of_and_F000 (h := 0x9#4) hw]

theorem decodesAs_ldi : DecodesAs 0xA000#16 0xF000#16 (fun w => .ldi (fieldNNN w)) :=
  decodesAs_formatA (h := 0xA#4) fun _ => rfl

theorem decodesAs_jpl : DecodesAs 0xB000#16 0xF000#16 (fun w => .jpl (fieldNNN w)) :=
  decodesAs_formatA (h := 0xB#4) fun _ => rfl

theorem decodesAs_rnd : DecodesAs 0xC000#16 0xF000#16 (fun w => .rnd (fieldX w) (fieldKK w)) :=
  decodesAs_formatXK (h := 0xC#4) fun _ _ => rfl

theorem decodesAs_drw : DecodesAs 0xD000#16 0xF000#16 (fun w => .drw (fieldX w) (fieldY w) (fieldN w)) :=
  decodesAs_formatXYN (h := 0xD#4) fun _ _ _ => rfl

theorem decodesAs_skp : DecodesAs 0xE09E#16 0xF0FF#16 (fun w => .skp (fieldX w)) :=
  decodesAs_formatXS (h := 0xE#4) (kk := 0x9E#8) fun _ => rfl

theorem decodesAs_sknp : DecodesAs 0xE0A1#16 0xF0FF#16 (fun w => .sknp (fieldX w)) :=
  decodesAs_formatXS (h := 0xE#4) (kk := 0xA1#8) fun _ => rfl

theorem decodesAs_movdt : DecodesAs 0xF007#16 0xF0FF#16 (fun w => .movdt (fieldX w)) :=
  decodesAs_formatXS (h := 0xF#4) (kk := 0x07#8) fun _ => rfl

theorem decodesAs_ldkb : DecodesAs 0xF00A#16 0xF0FF#16 (fun w => .ldkb (fieldX w)) :=
  decodesAs_formatXS (h := 0xF#4) (kk := 0x0A#8) fun _ => rfl

theorem decodesAs_lddt : DecodesAs 0xF015#16 0xF0FF#16 (fun w => .lddt (fieldX w)) :=
  decodesAs_formatXS (h := 0xF#4) (kk := 0x15#8) fun _ => rfl

theorem decodesAs_ldst : DecodesAs 0xF018#16 0xF0FF#16 (fun w => .ldst (fieldX w)) :=
  decodesAs_formatXS (h := 0xF#4) (kk := 0x18#8) fun _ => rfl

theorem decodesAs_addi : DecodesAs 0xF01E#16 0xF0FF#16 (fun w => .addi (fieldX w)) :=
  decodesAs_formatXS (h := 0xF#4) (kk := 0x1E#8) fun _ => rfl

theorem decodesAs_ldspr : DecodesAs 0xF029#16 0xF0FF#16 (fun w => .ldspr (fieldX w)) :=
  decodesAs_formatXS (h := 0xF#4) (kk := 0x29#8) fun _ => rfl

theorem decodesAs_ldbcd : DecodesAs 0xF033#16 0xF0FF#16 (fun w => .ldbcd (fieldX w)) :=
  decodesAs_formatXS (h := 0xF#4) (kk := 0x33#8) fun _ => rfl

theorem decodesAs_pushreg : DecodesAs 0xF055#16 0xF0FF#16 (fun w => .pushreg (fieldX w)) :=
  decodesAs_formatXS (h := 0xF#4) (kk := 0x55#8) fun _ => rfl

theorem decodesAs_popreg : DecodesAs 0xF065#16 0xF0FF#16 (fun w => .popreg (fieldX w)) :=
  decodesAs_formatXS (h := 0xF#4) (kk := 0x65#8) fun _ => rfl

/-! ### Encode after decode -/

/-- The word the assembler writes for the instruction of a word: the nibble that SE and SNE ignore is 0 (R308, R314). -/
def assembledWord (w : Word) : Word := if fieldH w = 0x5#4 ∨ fieldH w = 0x9#4 then w &&& 0xFFF0#16 else w

/-- The error of a word that is no instruction (R306). -/
def decodeErrorOf (w : Word) : DecodeError :=
  if fieldH w = 0x8#4 then .unknownSubcode 0x8#4 (fieldN w) else .unknownOpcode w

/-- Everything family 0x8 can answer. -/
theorem decodeFamily8_cases (x y : Reg) (n : Nibble) :
    (∃ i, decodeFamily8 x y n = .ok i ∧ encode i = wordXYN 0x8#4 x y n) ∨
    decodeFamily8 x y n = .error (.unknownSubcode 0x8#4 n) := by
  unfold decodeFamily8
  repeat
    split
    · subst n; exact .inl ⟨_, rfl, rfl⟩
  exact .inr rfl

/-- Everything family 0xE can answer. -/
theorem decodeFamilyE_cases (w : Word) (x : Reg) (kk : Byte) :
    (∃ i, decodeFamilyE w x kk = .ok i ∧ encode i = wordXK 0xE#4 x kk) ∨
    decodeFamilyE w x kk = .error (.unknownOpcode w) := by
  unfold decodeFamilyE
  repeat
    split
    · subst kk; exact .inl ⟨_, rfl, rfl⟩
  exact .inr rfl

/-- Everything family 0xF can answer. -/
theorem decodeFamilyF_cases (w : Word) (x : Reg) (kk : Byte) :
    (∃ i, decodeFamilyF w x kk = .ok i ∧ encode i = wordXK 0xF#4 x kk) ∨
    decodeFamilyF w x kk = .error (.unknownOpcode w) := by
  unfold decodeFamilyF
  repeat
    split
    · subst kk; exact .inl ⟨_, rfl, rfl⟩
  exact .inr rfl

/-- Everything family 0x0 can answer. -/
theorem decodeFamily0_cases (w : Word) :
    (∃ i, decodeFamily0 w = .ok i ∧ encode i = w) ∨ decodeFamily0 w = .error (.unknownOpcode w) := by
  unfold decodeFamily0
  repeat
    split
    · subst w; exact .inl ⟨_, rfl, rfl⟩
  exact .inr rfl

/-- The high nibble by the format of its family (R302). -/
theorem family_cases : ∀ h : Nibble, h = 0x0#4 ∨ (h = 0x1#4 ∨ h = 0x2#4 ∨ h = 0xA#4 ∨ h = 0xB#4) ∨
    (h = 0x3#4 ∨ h = 0x4#4 ∨ h = 0x6#4 ∨ h = 0x7#4 ∨ h = 0xC#4) ∨ (h = 0x5#4 ∨ h = 0x9#4) ∨ h = 0xD#4 ∨ h = 0x8#4 ∨
    h = 0xE#4 ∨ h = 0xF#4 := by decide

/-- Everything the decoder can answer: an instruction, encoded as this word but for an ignored nibble, or the error of
R306. -/
theorem decode_cases (w : Word) :
    (∃ i, decode w = .ok i ∧ encode i = assembledWord w) ∨ decode w = .error (decodeErrorOf w) := by
  obtain h | h | h | h | h | h | h | h := family_cases (fieldH w)
  · simpa [decode, assembledWord, decodeErrorOf, h] using decodeFamily0_cases w
  · left
    obtain h | h | h | h := h <;> simp [decode, assembledWord, encode, h]
  · left
    obtain h | h | h | h | h := h <;> simp [decode, assembledWord, encode, h]
  · left
    obtain h | h := h <;> simp [decode, assembledWord, encode, h, wordXYN_fields_zero]
  · simp [decode, assembledWord, encode, h]
  · simpa [decode, assembledWord, decodeErrorOf, h] using decodeFamily8_cases (fieldX w) (fieldY w) (fieldN w)
  · simpa [decode, assembledWord, decodeErrorOf, h] using decodeFamilyE_cases w (fieldX w) (fieldKK w)
  · simpa [decode, assembledWord, decodeErrorOf, h] using decodeFamilyF_cases w (fieldX w) (fieldKK w)

theorem encode_of_decode {w : Word} {i : Instr} (hd : decode w = .ok i) : encode i = assembledWord w := by
  obtain ⟨j, hj, hw⟩ | he := decode_cases w
  · obtain rfl : j = i := by simpa [hj] using hd
    exact hw
  · simp [he] at hd

/-- Settles O3: of what the decoder can answer, an instruction comes with its word. -/
theorem encodeOfDecodeGivesWordBack : Obligations.EncodeOfDecodeGivesWordBack :=
  fun _ _ hd => encode_of_decode hd

/-! ### The opcode table (R304, R306, R310) -/

/-- The words that select a row decode to instructions of the row's mnemonic. -/
def DecodesRow (r : OpcodeRow) : Prop :=
  ∃ f : Word → Instr, DecodesAs r.pattern r.mask f ∧ ∀ w, r.mnemonic = (f w).mnemonic

/-- The decoder follows every row of the table. -/
theorem opcodeTable_decodesRow : opcodeTable.Forall DecodesRow := by
  simp only [opcodeTable, opcodeRows0to7, opcodeRows8, opcodeRows9toE, opcodeRowsF, List.cons_append, List.nil_append,
    List.Forall]
  exact ⟨
    ⟨_, decodesAs_cls, fun _ => rfl⟩,
    ⟨_, decodesAs_ret, fun _ => rfl⟩,
    ⟨_, decodesAs_jp, fun _ => rfl⟩,
    ⟨_, decodesAs_call, fun _ => rfl⟩,
    ⟨_, decodesAs_seq, fun _ => rfl⟩,
    ⟨_, decodesAs_snelit, fun _ => rfl⟩,
    ⟨_, decodesAs_se, fun _ => rfl⟩,
    ⟨_, decodesAs_ldl, fun _ => rfl⟩,
    ⟨_, decodesAs_addl, fun _ => rfl⟩,
    ⟨_, decodesAs_ld, fun _ => rfl⟩,
    ⟨_, decodesAs_or, fun _ => rfl⟩,
    ⟨_, decodesAs_and, fun _ => rfl⟩,
    ⟨_, decodesAs_xor, fun _ => rfl⟩,
    ⟨_, decodesAs_addc, fun _ => rfl⟩,
    ⟨_, decodesAs_subc, fun _ => rfl⟩,
    ⟨_, decodesAs_shrc, fun _ => rfl⟩,
    ⟨_, decodesAs_subn, fun _ => rfl⟩,
    ⟨_, decodesAs_shlc, fun _ => rfl⟩,
    ⟨_, decodesAs_sne, fun _ => rfl⟩,
    ⟨_, decodesAs_ldi, fun _ => rfl⟩,
    ⟨_, decodesAs_jpl, fun _ => rfl⟩,
    ⟨_, decodesAs_rnd, fun _ => rfl⟩,
    ⟨_, decodesAs_drw, fun _ => rfl⟩,
    ⟨_, decodesAs_skp, fun _ => rfl⟩,
    ⟨_, decodesAs_sknp, fun _ => rfl⟩,
    ⟨_, decodesAs_movdt, fun _ => rfl⟩,
    ⟨_, decodesAs_ldkb, fun _ => rfl⟩,
    ⟨_, decodesAs_lddt, fun _ => rfl⟩,
    ⟨_, decodesAs_ldst, fun _ => rfl⟩,
    ⟨_, decodesAs_addi, fun _ => rfl⟩,
    ⟨_, decodesAs_ldspr, fun _ => rfl⟩,
    ⟨_, decodesAs_ldbcd, fun _ => rfl⟩,
    ⟨_, decodesAs_pushreg, fun _ => rfl⟩,
    ⟨_, decodesAs_popreg, fun _ => rfl⟩⟩

/-- A word that selects a row of the table decodes to an instruction of the row's mnemonic. -/
theorem decode_of_selects {r : OpcodeRow} {w : Word} (hr : r ∈ opcodeTable) (hw : r.selects w = true) :
    ∃ i, decode w = .ok i ∧ r.mnemonic = i.mnemonic := by
  obtain ⟨f, hf, hm⟩ := List.forall_iff_forall_mem.1 opcodeTable_decodesRow r hr
  exact ⟨f w, hf w (by simpa [OpcodeRow.selects] using hw), hm w⟩

theorem opcodeTable_mnemonics_nodup : (opcodeTable.map OpcodeRow.mnemonic).Nodup := by decide

/-- The rows are disjoint: a word decodes to one instruction, whose mnemonic stands in one row. -/
theorem row_unique {r q : OpcodeRow} {w : Word} (hr : r ∈ opcodeTable) (hq : q ∈ opcodeTable)
    (hrw : r.selects w = true) (hqw : q.selects w = true) : r = q := by
  obtain ⟨i, hi, hri⟩ := decode_of_selects hr hrw
  obtain ⟨j, hj, hqj⟩ := decode_of_selects hq hqw
  obtain rfl : i = j := by simpa [hi] using hj
  exact List.inj_on_of_nodup_map opcodeTable_mnemonics_nodup hr hq (hri.trans hqj.symm)

theorem legalWord_iff (w : Word) : legalWord w = true ↔ ∃ r ∈ opcodeTable, r.selects w = true := List.any_eq_true

/-- The laws of EncodeRow, for every instruction. -/
theorem encode_selects_row (i : Instr) : Laws.EncodeRow.Statement i := by
  cases i
  exacts [Laws.EncodeRow.cls, Laws.EncodeRow.ret, Laws.EncodeRow.jp _, Laws.EncodeRow.call _, Laws.EncodeRow.seq _ _,
    Laws.EncodeRow.snelit _ _, Laws.EncodeRow.se _ _, Laws.EncodeRow.ldl _ _, Laws.EncodeRow.addl _ _,
    Laws.EncodeRow.ld _ _, Laws.EncodeRow.or _ _, Laws.EncodeRow.and _ _, Laws.EncodeRow.xor _ _,
    Laws.EncodeRow.addc _ _, Laws.EncodeRow.subc _ _, Laws.EncodeRow.shrc _ _, Laws.EncodeRow.subn _ _,
    Laws.EncodeRow.shlc _ _, Laws.EncodeRow.sne _ _, Laws.EncodeRow.ldi _, Laws.EncodeRow.jpl _,
    Laws.EncodeRow.rnd _ _, Laws.EncodeRow.drw _ _ _, Laws.EncodeRow.skp _, Laws.EncodeRow.sknp _,
    Laws.EncodeRow.movdt _, Laws.EncodeRow.ldkb _, Laws.EncodeRow.lddt _, Laws.EncodeRow.ldst _,
    Laws.EncodeRow.addi _, Laws.EncodeRow.ldspr _, Laws.EncodeRow.ldbcd _, Laws.EncodeRow.pushreg _,
    Laws.EncodeRow.popreg _]

theorem legalWord_encode (i : Instr) : legalWord (encode i) = true := by
  obtain ⟨r, hr, -, hw⟩ := encode_selects_row i
  exact (legalWord_iff _).2 ⟨r, hr, hw⟩

/-- Every word of the families SE and SNE is legal, whatever its low nibble (R308). -/
theorem legalWord_of_low_nibble_ignored {w : Word} (hh : fieldH w = 0x5#4 ∨ fieldH w = 0x9#4) :
    legalWord w = true := by
  rw [legalWord_iff]
  obtain hh | hh := hh
  · exact ⟨⟨"SE", 0x5000#16, 0xF000#16⟩, by decide, by simp [OpcodeRow.selects, and_F000, hh, wordA]⟩
  · exact ⟨⟨"SNE", 0x9000#16, 0xF000#16⟩, by decide, by simp [OpcodeRow.selects, and_F000, hh, wordA]⟩

theorem legalWord_of_decode {w : Word} {i : Instr} (hd : decode w = .ok i) : legalWord w = true := by
  by_cases hh : fieldH w = 0x5#4 ∨ fieldH w = 0x9#4
  · exact legalWord_of_low_nibble_ignored hh
  · have hw : encode i = w := (encode_of_decode hd).trans (if_neg hh)
    exact hw ▸ legalWord_encode i

theorem decode_of_not_legalWord {w : Word} (hw : legalWord w = false) : decode w = .error (decodeErrorOf w) := by
  obtain ⟨i, hi, -⟩ | he := decode_cases w
  · simp [legalWord_of_decode hi] at hw
  · exact he

/-- Family 0x0 holds CLS and RET alone (R309). -/
theorem decode_family0_unknown {w : Word} (hh : fieldH w = 0x0#4) (hcls : w ≠ 0x00E0#16) (hret : w ≠ 0x00EE#16) :
    decode w = .error (.unknownOpcode w) := by
  simp [decode, decodeFamily0, hh, hcls, hret]

/-- No word raises InvalidRegister (R307). -/
theorem decode_ne_invalidRegister (w v : Word) (n : Nibble) : decode w ≠ .error (.invalidRegister v n) := by
  obtain ⟨i, hi, -⟩ | he := decode_cases w
  · simp [hi]
  · rw [he, decodeErrorOf]
    split <;> simp

/-- Settles O4: a legal word decodes by its row; any other is no instruction, so it has the error of R306. -/
theorem everyWordDecodesByTheTable : Obligations.EveryWordDecodesByTheTable := by
  intro w
  refine ⟨fun r hr q hq => row_unique hr hq, fun hw => ?_, decode_of_not_legalWord, decode_family0_unknown,
    decode_ne_invalidRegister w⟩
  obtain ⟨r, hr, hsel⟩ := (legalWord_iff w).1 hw
  obtain ⟨i, hi, hm⟩ := decode_of_selects hr hsel
  exact ⟨i, r, hi, hr, hm, hsel⟩

end Sys2Proof.Machine

/-! SUPPORT. Proofs about the step engine (40_step_engine.md): every instruction answers, a step stops only at a faulted
core, a step of a decoded instruction, the timers over one step, and what the step does not read. -/

namespace Sys2Proof.Machine

/-! ### What answers a next state (R401, R407) -/

/-- A checked operation answers, whether its check passes or raises. -/
theorem orRaise_answers {α : Type} (r : Except ErrorCause α) (s : State) (k : α → State) :
    ∃ t, orRaise r s k = .next t := by
  obtain ⟨a, _, ha⟩ | ⟨c, _, hc⟩ := orRaise_cases r s k
  · exact ⟨_, ha⟩
  · exact ⟨_, hc⟩

theorem mapNext_answers (f : State → State) {o : StepOutcome} (h : ∃ u, o = .next u) : ∃ t, mapNext f o = .next t := by
  obtain ⟨u, rfl⟩ := h
  exact ⟨f u, rfl⟩

/-- Settles O40: a meaning is a next state outright, or a checked operation, which answers either way. -/
theorem everyInstructionAnswersNext : Obligations.EveryInstructionAnswersNext := by
  intro i s
  cases i with
  | ret | call _ | drw _ _ _ | skp _ | sknp _ | ldbcd _ | pushreg _ | popreg _ => exact orRaise_answers _ _ _
  | _ => exact ⟨_, rfl⟩

/-- The step of a core that is not faulted answers, in a raised error too. -/
theorem step_answers {s : State} (hf : s.fault = none) : ∃ t, step s = .next t := by
  obtain ⟨_, hs⟩ | ⟨_, _, _, hs⟩ | ⟨_, d, _, hs⟩ := step_cases hf
  · exact ⟨_, hs⟩
  · exact ⟨_, hs⟩
  · rw [hs]
    exact mapNext_answers _ (mapNext_answers _ (everyInstructionAnswersNext d _))

/-- Settles O36: the stop of a faulted core, and the answer of any other. -/
theorem stepStopsExactlyWhenFaulted : Obligations.StepStopsExactlyWhenFaulted :=
  fun _ => ⟨fun _ => step_faulted, step_answers⟩

/-! ### A step whose fetch is possible (R400, R408) -/

theorem State.nextTurn_of_cons {s : State} {h : HostTurn} {hs : List HostTurn} (hscript : s.script = h :: hs) :
    s.nextTurn = h := by
  simp [State.nextTurn, hscript]

theorem State.nextTurn_of_nil {s : State} (hscript : s.script = []) : s.nextTurn = Config.freeTurn s.drawn := by
  simp [State.nextTurn, hscript]

/-- The result is Ok unless an error was raised (R408). -/
theorem State.commit_result (d : Instr) (s : State) :
    (State.commit d s).result = if s.fault = none then some (.ok d) else s.result := by
  cases h : s.fault <;> simp [State.commit, h]

/-- The end of a step after the execute phase writes the result and the latch alone (R404, R408). -/
theorem changesOnly_commit_release (d : Instr) (s : State) :
    ChangesOnly [.result, .latch] s (State.commit d s).release := by
  intro p hp
  cases p <;> simp [Unchanged] at hp ⊢

/-- The state in which the execute phase runs: beyond what the step has changed when it fetches, pc (R405). -/
theorem changesOnly_atFetch_advance (s : State) :
    ChangesOnly [.dt, .st, .keys, .halted, .latch, .host, .pc] s s.atFetch.advance :=
  (changesOnly_atFetch s).trans (changesOnly_pc _)

/-- The step of a word that decodes to nothing raises its decode error after the advance (R306, R1101). -/
theorem step_of_decode_error {s : State} {e : DecodeError} (hf : s.fault = none) (hpc : s.pc.toNat ≤ 0xFFE)
    (hd : decode s.fetchWord = .error e) :
    step s = mapNext State.release (raise (decodeCause e) s.atFetch.advance) := by
  obtain ⟨hlt, _⟩ | ⟨_, e', he, hs⟩ | ⟨_, d, hd', _⟩ := step_cases hf
  · omega
  · obtain rfl : e = e' := by simpa [hd] using he
    exact hs
  · simp [hd] at hd'

/-- Settles O33: the execute phase runs in the state at the fetch with pc advanced, and it answers. -/
theorem stepRunsTheDecodedInstruction : Obligations.StepRunsTheDecodedInstruction := by
  intro s i hf hpc hd
  obtain ⟨v, hv⟩ := everyInstructionAnswersNext i s.atFetch.advance
  have hstep : step s = .next (State.commit i v).release := by
    rw [step_of_decode hf hpc hd, hv]
    rfl
  refine ⟨s.atFetch.advance, v, _, hv, hstep, by simp, by simp, s.atFetch_dt_toNat, s.atFetch_st_toNat, by simp,
    by simp, (changesOnly_atFetch_advance s).mono (by decide), fun h hs hscript => ?_, fun hscript => ?_,
    State.commit_result i v, rfl, changesOnly_commit_release i v⟩
  · exact ⟨State.nextTurn_of_cons hscript, by simp [hscript], by simp [State.atFetch_drawn, hscript]⟩
  · exact ⟨State.nextTurn_of_nil hscript, by simp [hscript], by simp [State.atFetch_drawn, hscript]⟩

/-! ### The timers over one step (R402, R414) -/

/-- A part that neither the decoded instruction writes, if there is one, nor the engine around it, is after the step as
it was when the step fetched. -/
theorem step_unchanged_since_fetch {s t : State} {p : Part} (h : step s = .next t)
    (hp : p ∉ [.pc, .fault, .result, .latch])
    (hi : ∀ d, s.pc.toNat ≤ 0xFFE → decode s.fetchWord = .ok d → p ∉ partsWrittenBy d) : Unchanged p s.atFetch t := by
  obtain ⟨_, hframe⟩ | ⟨hpc, d, u, hd, hu, rfl⟩ := step_next_cases h
  · exact hframe p hp
  · have hexec : p ∉ partsWrittenBy d := hi d hpc hd
    have hframe := ((changesOnly_pc _).trans (exec_changesOnly hu)).trans (changesOnly_commit_release d u)
    simp only [List.mem_cons, List.not_mem_nil, or_false, not_or] at hp
    exact hframe p (by simp [hp, hexec])

theorem eq_lddt_of_dt_mem {d : Instr} (h : .dt ∈ partsWrittenBy d) : ∃ x, d = .lddt x := by
  cases d <;> simp [partsWrittenBy] at h ⊢

theorem eq_ldst_of_st_mem {d : Instr} (h : .st ∈ partsWrittenBy d) : ∃ x, d = .ldst x := by
  cases d <;> simp [partsWrittenBy] at h ⊢

/-- Settles O37: after the tick only LDDT writes DT and only LDST writes ST, and no error does. -/
theorem timersTickOncePerDueStep : Obligations.TimersTickOncePerDueStep := by
  intro s t h
  refine ⟨fun hno => ?_, fun hno => ?_⟩
  · have hdt : t.dt = s.atFetch.dt := step_unchanged_since_fetch (p := .dt) h (by decide) fun d hpc hd hmem => by
      obtain ⟨x, rfl⟩ := eq_lddt_of_dt_mem hmem
      exact hno x ⟨hpc, hd⟩
    rw [hdt, State.atFetch_dt_toNat]
  · have hst : t.st = s.atFetch.st := step_unchanged_since_fetch (p := .st) h (by decide) fun d hpc hd hmem => by
      obtain ⟨x, rfl⟩ := eq_ldst_of_st_mem hmem
      exact hno x ⟨hpc, hd⟩
    rw [hst, State.atFetch_st_toNat]

/-! ### The step does not read `halted` (R410) -/

/-- The state with the given `halted` flag; states alike but for the flag agree once it is set to false. -/
def State.setHalted (b : Bool) (s : State) : State := { s with halted := b }

section Halted
variable (b : Bool) (s : State)

/-- A change of `halted` before a step is a change of that flag alone at its fetch, and none if the host's turn writes
it (R160). -/
theorem atFetch_setHalted :
    (s.setHalted b).atFetch = s.atFetch.setHalted (s.nextTurn.haltedWrite.getD b) := by
  cases h : s.script <;>
    simp [State.atFetch, State.atStrobe, State.turnTaken, State.nextTurn, State.hostWrites, State.tick, State.sample,
      State.setHalted, h]

theorem popToPc_setHalted : (s.setHalted b).popToPc = s.popToPc.map (State.setHalted b) := by
  by_cases h : 0 < s.sp.val <;> simp [State.popToPc, State.setHalted, Except.map, h]

theorem push_setHalted (w : Word) : (s.setHalted b).push w = (s.push w).map (State.setHalted b) := by
  by_cases h : s.sp.val < 16 <;> simp [State.push, State.setHalted, Except.map, h]

variable {s}

/-- A checked operation does not read `halted` if its check and its continuation do not: g says what a change of the
flag makes of the value checked. -/
theorem orRaise_setHalted {α : Type} {r r' : Except ErrorCause α} {k k' : α → State} {g : α → α} (hr : r' = r.map g)
    (hk : ∀ a, (k' (g a)).setHalted false = (k a).setHalted false) :
    mapNext (State.setHalted false) (orRaise r' (s.setHalted b) k') =
      mapNext (State.setHalted false) (orRaise r s k) := by
  subst hr
  cases r with
  | ok a => exact congrArg Host.Outcome.next (hk a)
  | error c => rfl

variable (s)

/-- What the execute phase does but for `halted` does not depend on that flag: JP alone reads it, to keep it (R501). -/
theorem exec_setHalted (i : Instr) : mapNext (State.setHalted false) (exec i (s.setHalted b)) =
    mapNext (State.setHalted false) (exec i s) := by
  cases i with
  | ret => exact orRaise_setHalted b (popToPc_setHalted b s) fun _ => rfl
  | call _ => exact orRaise_setHalted b (push_setHalted b s s.pc) fun _ => rfl
  | drw _ _ _ | skp _ | sknp _ | ldbcd _ | pushreg _ | popreg _ =>
    exact orRaise_setHalted b (g := id) (congrFun Except.map_id _).symm fun _ => rfl
  | _ => rfl

/-- The end of a step neither reads nor writes `halted`. -/
theorem mapNext_setHalted_end (d : Instr) (o : StepOutcome) :
    mapNext (State.setHalted b) (mapNext State.release (mapNext (State.commit d) o)) =
      mapNext State.release (mapNext (State.commit d) (mapNext (State.setHalted b) o)) := by
  cases o <;> rfl

/-- None of the ways a step can go (`step_cases`) reads `halted`. -/
theorem step_setHalted : mapNext (State.setHalted false) (step (s.setHalted b)) =
    mapNext (State.setHalted false) (step s) := by
  cases hf : s.fault with
  | some e => rw [step_faulted hf, step_faulted (s := s.setHalted b) hf]
  | none =>
    obtain ⟨hpc, hs⟩ | ⟨hpc, e, hd, hs⟩ | ⟨hpc, d, hd, hs⟩ := step_cases hf
    · rw [hs, step_of_fetch_beyond (s := s.setHalted b) hf hpc, atFetch_setHalted]
      rfl
    · rw [hs, step_of_decode_error (s := s.setHalted b) hf hpc hd, atFetch_setHalted]
      rfl
    · rw [hs, step_of_decode (s := s.setHalted b) hf hpc hd, atFetch_setHalted, mapNext_setHalted_end,
        mapNext_setHalted_end]
      exact congrArg _ (congrArg _ (exec_setHalted _ s.atFetch.advance d))

end Halted

/-- Settles O39: a change of `halted` comes to the fetch as a change of that flag alone, which no phase reads. -/
theorem haltedIsNotRead : Obligations.HaltedIsNotRead := fun s h => step_setHalted h s

end Sys2Proof.Machine

/-! SUPPORT. Proofs about control transfer (41_control_transfer.md): what RET, JP, CALL and JPL do, a RET after a CALL, and
the invariant that every step keeps. -/

namespace Sys2Proof.Machine

/-! ### Jumps (R501, R503) -/

@[simp] theorem jumpTarget_toNat (nnn : Addr) : (jumpTarget nnn).toNat = nnn.toNat := (jumpTarget_eq_iff nnn _).1 rfl

/-- Settles O15: of the two things the execute phase can do to `halted`, JP sets it exactly when the target is its own
address. -/
theorem jumpSetsHaltedOnSelfLoop : Obligations.JumpSetsHaltedOnSelfLoop := by
  refine ⟨decodesAs_jp, fun nnn s => ?_⟩
  obtain ⟨t, ht⟩ := everyInstructionAnswersNext (.jp nnn) s
  have hpc : t.pc = jumpTarget nnn := by cases ht; rfl
  have hself : jumpsToItself (.jp nnn) s ↔ nnn.toNat = s.latch.pcInstr.toNat := by simp [jumpsToItself]
  refine ⟨t, ht, by simp [hpc], fun heq => ?_, fun hne => ?_, (exec_changesOnly ht).mono (by simp [partsWrittenBy])⟩
  · obtain ⟨_, hhalted⟩ | ⟨hno, _⟩ := exec_halted_cases ht
    · exact hhalted
    · exact absurd (hself.2 heq) hno
  · obtain ⟨hyes, _⟩ | ⟨_, hhalted⟩ := exec_halted_cases ht
    · exact absurd (hself.1 hyes) hne
    · exact hhalted

/-- The 16-bit add of an indexed jump never wraps: the largest target is 0x10FE (R503). -/
theorem State.indexedTarget_toNat (s : State) (nnn : Addr) :
    (s.indexedTarget nnn).toNat = (s.reg 0#4).toNat + nnn.toNat := by
  have := (s.reg 0#4).isLt
  have := nnn.isLt
  simp only [State.indexedTarget, BitVec.toNat_add, BitVec.toNat_setWidth]
  omega

/-- Settles O17: pc takes the indexed target, which does not wrap. -/
theorem indexedJump : Obligations.IndexedJump :=
  ⟨decodesAs_jpl, fun nnn s => ⟨_, rfl, s.indexedTarget_toNat nnn, changesOnly_pc _⟩⟩

/-! ### The call stack (R500, R502) -/

/-- A checked operation whose check finds an error raises it. -/
theorem orRaise_raises {α : Type} {r : Except ErrorCause α} {c : ErrorCause} (h : r = .error c) (s : State)
    (k : α → State) : Raises (orRaise r s k) c s := by
  subst h
  exact raise_raises c s

/-- Settles O14: everything a pop can do, with its frame. -/
theorem returnPops : Obligations.ReturnPops := by
  refine ⟨decodesAs_ret, fun s => ?_⟩
  obtain ⟨hpos, _, t, hpop, hsp, hpc, ht⟩ | ⟨hzero, hpop⟩ := s.popToPc_cases
  · refine ⟨fun _ => ⟨t, by simp [exec, execRet, hpop, orRaise], by omega, fun _ => hpc, by rw [ht], ?_⟩,
      fun hzero => by omega⟩
    exact (changesOnly_of_popToPc hpop).mono (by decide)
  · exact ⟨fun hpos => by omega, fun _ => orRaise_raises hpop s id⟩

/-- Settles O16: everything a push can do, then the jump. -/
theorem callPushes : Obligations.CallPushes := by
  refine ⟨decodesAs_call, fun nnn s => ?_⟩
  obtain ⟨t, hlt, hpush, hsp, hstack, _⟩ | ⟨hfull, hpush⟩ := s.push_cases s.pc
  · refine ⟨fun _ => ⟨t.setPc (jumpTarget nnn), by simp [exec, execCall, hpush, orRaise], hsp, by simp, hstack, ?_⟩,
      fun hfull => by omega⟩
    exact ((changesOnly_of_push hpush).trans (changesOnly_pc _)).mono (by decide)
  · exact ⟨fun hlt => by omega, fun _ => orRaise_raises hpush s _⟩

/-- Settles O18: the RET pops the entry the CALL pushed, so pc and SP are back where they were; the entries below are
those the CALL kept. -/
theorem returnAfterCallComesBack : Obligations.ReturnAfterCallComesBack := by
  intro nnn s hlt
  obtain ⟨t, ht, htsp, _, htstack, htframe⟩ := (callPushes.2 nnn s).1 hlt
  obtain ⟨u, hu, husp, hupc, hustack, huframe⟩ := (returnPops.2 t).1 (by omega)
  have htop : t.sp.val - 1 = s.sp.val := by omega
  have hentry : t.stack[s.sp.val] = s.pc := by simpa using htstack ⟨s.sp.val, hlt⟩
  have hpc : u.pc = s.pc := by simpa [htop, hentry] using hupc (by omega)
  refine ⟨t, u, ht, hu, hpc, Fin.ext (by omega), fun k hk => ?_, fun p hp => ?_⟩
  · simpa [hustack, Nat.ne_of_lt hk] using htstack k
  · by_cases hp' : p = .pc
    · subst hp'
      exact hpc
    · exact (htframe.trans huframe) p (by simpa [hp'] using hp)

/-! ### Errors that a fetched instruction can raise (R1100, R1121) -/

/-- The error table admits this cause at every address a fetch can succeed at. -/
def ErrorCause.Admissible (c : ErrorCause) : Prop := ∀ a : Word, a.toNat ≤ 0xFFE → ErrorRecord.admitted ⟨c, a⟩

/-- Family 0x8 rejects no sub-operation of the table (R306). -/
theorem decodeFamily8_error {x y : Reg} {n : Nibble} {e : DecodeError} (h : decodeFamily8 x y n = .error e) :
    8 ≤ n.toNat ∧ n ≠ 0xE#4 := by
  simp only [decodeFamily8, ite_eq_iff, reduceCtorEq, and_false, false_or] at h
  bv_omega

/-- A decode error names the word or the sub-operation that the table lacks. -/
theorem admissible_of_decode_error {w : Word} {e : DecodeError} (h : decode w = .error e) :
    (decodeCause e).Admissible := by
  intro a ha
  obtain ⟨i, hi, -⟩ | he := decode_cases w
  · simp [h] at hi
  · obtain rfl : e = decodeErrorOf w := by simpa [h] using he
    by_cases hfam : fieldH w = 0x8#4
    · have hsub : decodeFamily8 (fieldX w) (fieldY w) (fieldN w) = .error (decodeErrorOf w) := by
        simpa [decode, hfam] using h
      rw [decodeErrorOf, if_pos hfam]
      exact ⟨rfl, decodeFamily8_error hsub, ha⟩
    · rw [decodeErrorOf, if_neg hfam] at h ⊢
      exact ⟨h, ha⟩

section CheckErrors
variable {s : State} {c : ErrorCause}

theorem admissible_of_popToPc (h : s.popToPc = .error c) : c.Admissible := by
  obtain ⟨_, _, _, hpop, _⟩ | ⟨_, hpop⟩ := s.popToPc_cases
  · simp [hpop] at h
  · obtain rfl : ErrorCause.stackUnderflow = c := by simpa [hpop] using h
    exact fun _ ha => ha

theorem admissible_of_push {w : Word} (h : s.push w = .error c) : c.Admissible := by
  obtain ⟨_, _, hpush, _⟩ | ⟨_, hpush⟩ := s.push_cases w
  · simp [hpush] at h
  · obtain rfl : ErrorCause.stackOverflow = c := by simpa [hpush] using h
    exact fun _ ha => ha

theorem admissible_of_keyNumbered {b : Byte} (h : s.keyNumbered b = .error c) : c.Admissible := by
  obtain ⟨_, hkey⟩ | ⟨hb, hkey⟩ := s.keyNumbered_cases b
  · simp [hkey] at h
  · obtain rfl : ErrorCause.invalidKey b = c := by simpa [hkey] using h
    exact fun _ ha => ⟨hb, ha⟩

theorem admissible_of_loadAtI {n : Nat} (h : s.loadAtI n = .error c) : c.Admissible := by
  obtain ⟨_, hload⟩ | ⟨_, _, hload⟩ := loadBytes_cases s.mem s.idx.toNat n
  · simp [State.loadAtI, hload] at h
  · obtain rfl : ErrorCause.memoryOutOfBounds 0x1000 = c := by simpa [State.loadAtI, hload] using h
    exact fun _ ha => ⟨rfl, ha⟩

theorem admissible_of_storeAtI {bs : List Byte} (h : s.storeAtI bs = .error c) : c.Admissible := by
  obtain ⟨_, hstore⟩ | ⟨_, _, hstore⟩ := storeBytes_cases s.mem s.idx.toNat bs
  · simp [State.storeAtI, hstore] at h
  · obtain rfl : ErrorCause.memoryOutOfBounds 0x1000 = c := by simpa [State.storeAtI, hstore] using h
    exact fun _ ha => ⟨rfl, ha⟩

end CheckErrors

/-! ### The invariant inside a step (R400) -/

/-- The part of the invariant that holds inside a step, before an error is raised. -/
structure State.Running (s : State) : Prop where
  memoryCanonical : s.mem.wf = true
  pcBounded : s.pc.toNat ≤ 0x10FE
  stackBounded : ∀ k : Fin 16, s.stack[k.val].toNat ≤ 0x1000
  noFault : s.fault = none

section Running
variable {s t : State}

/-- Another pc within the bound. -/
theorem State.Running.setPc (hs : s.Running) {w : Word} (hw : w.toNat ≤ 0x10FE) : (s.setPc w).Running :=
  ⟨hs.memoryCanonical, hw, hs.stackBounded, hs.noFault⟩

/-- Another memory in canonical form. -/
theorem State.Running.setMem (hs : s.Running) {m : Memory} (hm : m.wf = true) : State.Running { s with mem := m } :=
  ⟨hm, hs.pcBounded, hs.stackBounded, hs.noFault⟩

theorem State.Running.setV (hs : s.Running) (v : RegFile) : State.Running { s with v := v } :=
  ⟨hs.memoryCanonical, hs.pcBounded, hs.stackBounded, hs.noFault⟩

theorem State.Running.setIdx (hs : s.Running) (n : Nat) : (s.setIdx n).Running :=
  ⟨by simpa using hs.memoryCanonical, by simpa using hs.pcBounded, by simpa using hs.stackBounded,
    by simpa using hs.noFault⟩

theorem State.Running.popToPc (hs : s.Running) (h : s.popToPc = .ok t) : t.Running := by
  obtain ⟨_, hk, u, hpop, _, hpc, hu⟩ | ⟨_, hpop⟩ := s.popToPc_cases
  · obtain rfl : u = t := by simpa [hpop] using h
    have htop : s.stack[s.sp.val - 1].toNat ≤ 0x1000 := hs.stackBounded ⟨_, hk⟩
    rw [hu]
    exact ⟨hs.memoryCanonical, by simp only [hpc]; omega, hs.stackBounded, hs.noFault⟩
  · simp [hpop] at h

theorem State.Running.push (hs : s.Running) {w : Word} (hw : w.toNat ≤ 0x1000) (h : s.push w = .ok t) :
    t.Running := by
  obtain ⟨u, _, hpush, _, hstack, hu⟩ | ⟨_, hpush⟩ := s.push_cases w
  · obtain rfl : u = t := by simpa [hpush] using h
    have hentries : ∀ k : Fin 16, u.stack[k.val].toNat ≤ 0x1000 := by
      intro k
      rw [hstack k]
      split
      · exact hw
      · exact hs.stackBounded k
    rw [hu]
    exact ⟨hs.memoryCanonical, hs.pcBounded, hentries, hs.noFault⟩
  · simp [hpush] at h

/-- A taken skip stays within the bound. -/
theorem State.Running.skipIf (hs : s.Running) (hpc : s.pc.toNat ≤ 0x1000) (b : Bool) : (s.skipIf b).Running := by
  refine hs.setPc ?_
  cases b
  · exact hs.pcBounded
  · simp only [if_true]
    bv_omega

/-- LDKB goes back by 2 from an advanced pc, or stays. -/
theorem State.Running.execLdkb (hs : s.Running) {x : Reg} (hpc : 2 ≤ s.pc.toNat) (h : execLdkb x s = .next t) :
    t.Running := by
  cases h
  refine ⟨hs.memoryCanonical, ?_, hs.stackBounded, hs.noFault⟩
  have := hs.pcBounded
  cases s.latch.keyEvent with
  | none => dsimp only; bv_omega
  | some _ => exact hs.pcBounded

/-- How an execute phase can end: in an error of the table raised where it began, or running. -/
def EndsSound (s t : State) : Prop := (∃ c, c.Admissible ∧ raise c s = .next t) ∨ t.Running

/-- A checked operation ends soundly if its check finds only admissible errors and its continuation keeps running. -/
theorem endsSound_of_orRaise {α : Type} {r : Except ErrorCause α} {k : α → State}
    (hr : ∀ c, r = .error c → c.Admissible) (hk : ∀ a, r = .ok a → (k a).Running) (h : orRaise r s k = .next t) :
    EndsSound s t := by
  cases r with
  | ok a =>
    cases h
    exact .inr (hk a rfl)
  | error c => exact .inl ⟨c, hr c rfl, h⟩

/-- The execute phase of every instruction ends soundly: pc has been advanced from an address where a fetch succeeds. -/
theorem exec_endsSound {i : Instr} (hs : s.Running) (hlo : 2 ≤ s.pc.toNat) (hhi : s.pc.toNat ≤ 0x1000)
    (h : exec i s = .next t) : EndsSound s t := by
  cases i with
  | ret => exact endsSound_of_orRaise (fun _ => admissible_of_popToPc) (fun _ => hs.popToPc) h
  | call nnn =>
    have htarget : (jumpTarget nnn).toNat ≤ 0x10FE := by
      have := nnn.isLt
      rw [jumpTarget_toNat]
      omega
    exact endsSound_of_orRaise (fun _ => admissible_of_push) (fun _ hpush => (hs.push hhi hpush).setPc htarget) h
  | jp nnn =>
    cases h
    refine .inr ⟨hs.memoryCanonical, ?_, hs.stackBounded, hs.noFault⟩
    have := nnn.isLt
    rw [State.setPc_pc, jumpTarget_toNat]
    omega
  | jpl nnn =>
    cases h
    refine .inr (hs.setPc ?_)
    have := (s.reg 0#4).isLt
    have := nnn.isLt
    rw [State.indexedTarget_toNat]
    omega
  | seq _ _ | snelit _ _ | se _ _ | sne _ _ => cases h; exact .inr (hs.skipIf hhi _)
  | skp _ | sknp _ =>
    exact endsSound_of_orRaise (fun _ => admissible_of_keyNumbered) (fun _ _ => hs.skipIf hhi _) h
  | ldkb _ => exact .inr (hs.execLdkb hlo h)
  | ldbcd _ =>
    refine endsSound_of_orRaise (fun _ => admissible_of_storeAtI) (fun _ hstore => ?_) h
    exact hs.setMem (storeBytes_wf hs.memoryCanonical hstore)
  | pushreg _ =>
    refine endsSound_of_orRaise (fun _ => admissible_of_storeAtI) (fun _ hstore => ?_) h
    exact (hs.setMem (storeBytes_wf hs.memoryCanonical hstore)).setIdx _
  | popreg _ => exact endsSound_of_orRaise (fun _ => admissible_of_loadAtI) (fun _ _ => (hs.setV _).setIdx _) h
  | drw _ _ _ =>
    refine endsSound_of_orRaise (fun _ => admissible_of_loadAtI) (fun _ _ => ?_) h
    exact ⟨hs.memoryCanonical, hs.pcBounded, hs.stackBounded, hs.noFault⟩
  | ldi _ | addi _ | ldspr _ => cases h; exact .inr (hs.setIdx _)
  | cls | lddt _ | ldst _ => cases h; exact .inr ⟨hs.memoryCanonical, hs.pcBounded, hs.stackBounded, hs.noFault⟩
  | _ => cases h; exact .inr (hs.setV _)

/-! ### The invariant over a step (R401, R1110) -/

/-- A step that ends in an admitted error ends in the invariant: the record stands in the fault latch and the result. -/
theorem inv_of_raise {c : ErrorCause} (hs : s.Running) (hc : (s.errorRecord c).admitted) (h : raise c s = .next t) :
    t.release.Inv := by
  cases h
  refine ⟨hs.memoryCanonical, rfl, hs.pcBounded, hs.stackBounded, fun e => by simp, fun e he => ?_⟩
  obtain rfl : s.errorRecord c = e := by simpa using he
  exact hc

/-- A step that ends running ends in the invariant: its result is Ok. -/
theorem inv_of_commit (hs : s.Running) (d : Instr) : (State.commit d s).release.Inv := by
  refine ⟨hs.memoryCanonical, rfl, hs.pcBounded, hs.stackBounded, fun e => ?_, fun e he => ?_⟩
  · simp [State.commit_result, hs.noFault]
  · simp [hs.noFault] at he

/-- The end of a step leaves a raised error as it stands (R408). -/
theorem commit_of_raise {c : ErrorCause} (d : Instr) (h : raise c s = .next t) : State.commit d t = t := by
  cases h
  rfl

/-- The host's turn, the tick and the sampling touch nothing that the invariant bounds. -/
theorem State.Inv.atFetch_running (hs : s.Inv) (hf : s.fault = none) : s.atFetch.Running :=
  ⟨by simpa using hs.memoryCanonical, by simpa using hs.pcBounded, by simpa using hs.stackBounded, by simpa using hf⟩

/-- The advance from an address where a fetch succeeds does not wrap. -/
theorem State.atFetch_advance_pc_toNat (hpc : s.pc.toNat ≤ 0xFFE) : s.atFetch.advance.pc.toNat = s.pc.toNat + 2 := by
  simp only [State.advance_pc, State.atFetch_pc]
  bv_omega

theorem admitted_fetchOutOfBounds (hpc : 0xFFE < s.pc.toNat) :
    (s.atFetch.errorRecord (.fetchOutOfBounds s.pc)).admitted := by
  simpa [ErrorRecord.admitted, State.errorRecord] using hpc

end Running

/-- Settles O49: a step ends in an error admitted at `pc_instr`, or with the decoded instruction run; either way in the
invariant. -/
theorem stepKeepsInvariant : Obligations.StepKeepsInvariant := by
  intro s t hs h
  cases hf : s.fault with
  | some e => simp [step_faulted hf] at h
  | none =>
    have hfetch := hs.atFetch_running hf
    obtain ⟨hpc, he⟩ | ⟨hpc, e, hd, he⟩ | ⟨hpc, d, hd, he⟩ := step_cases hf
    · obtain ⟨u, hu, rfl⟩ := mapNext_eq_next.1 (he ▸ h)
      exact inv_of_raise hfetch (admitted_fetchOutOfBounds hpc) hu
    all_goals
      have hadv := State.atFetch_advance_pc_toNat hpc
      have hrun : s.atFetch.advance.Running := hfetch.setPc (by rw [← State.advance_pc]; omega)
      have hadmitted : ∀ c : ErrorCause, c.Admissible → (s.atFetch.advance.errorRecord c).admitted :=
        fun c hc => hc _ (by simpa using hpc)
    · obtain ⟨u, hu, rfl⟩ := mapNext_eq_next.1 (he ▸ h)
      exact inv_of_raise hrun (hadmitted _ (admissible_of_decode_error hd)) hu
    · obtain ⟨_, hcommit, rfl⟩ := mapNext_eq_next.1 (he ▸ h)
      obtain ⟨u, hu, rfl⟩ := mapNext_eq_next.1 hcommit
      obtain ⟨c, hc, hraise⟩ | hsound := exec_endsSound hrun (by omega) (by omega) hu
      · rw [commit_of_raise d hraise]
        exact inv_of_raise hrun (hadmitted c hc) hraise
      · exact inv_of_commit hsound d

end Sys2Proof.Machine

/-! SUPPORT. Proofs about the conditional skips (42_skips.md): what a skip under a condition does, and the six
instructions' conditions. -/

namespace Sys2Proof.Machine

/-! ### A skip under a condition (R105) -/

section Skips
variable {o : StepOutcome} {s : State} {c : Bool} {P : Prop} [Decidable P]

/-- An outcome that skips when P holds adds 2 to pc just then, and changes nothing else. -/
theorem skips_if (ho : o = .next (s.skipIf c)) (hc : c = true ↔ P) :
    ∃ t, o = .next t ∧ t.pc = (if P then s.pc + 2#16 else s.pc) ∧ ChangesOnly [.pc] s t :=
  ⟨s.skipIf c, ho, by simp [hc], changesOnly_pc _⟩

/-- An outcome that skips when P fails leaves pc when P holds, and changes nothing else. -/
theorem skips_unless (ho : o = .next (s.skipIf c)) (hc : c = true ↔ ¬ P) :
    ∃ t, o = .next t ∧ t.pc = (if P then s.pc else s.pc + 2#16) ∧ ChangesOnly [.pc] s t := by
  obtain ⟨t, ht, hpc, hframe⟩ := skips_if ho hc
  exact ⟨t, ht, by rw [hpc, ite_not], hframe⟩

end Skips

/-! ### Comparisons (R600 to R603) -/

/-- Settles O12: SEQ and SE skip if their operands are equal, SNELIT and SNE unless they are. -/
theorem equalitySkips : Obligations.EqualitySkips :=
  ⟨decodesAs_seq, decodesAs_snelit, decodesAs_se, decodesAs_sne, fun _ _ _ _ =>
    ⟨skips_if rfl beq_iff_eq, skips_unless rfl bne_iff_ne, skips_if rfl beq_iff_eq, skips_unless rfl bne_iff_ne⟩⟩

/-! ### Keys (R610, R611) -/

/-- A checked operation whose check passes answers what its continuation makes of the value. -/
theorem orRaise_eq_next {α : Type} {r : Except ErrorCause α} {a : α} (h : r = .ok a) (s : State) (k : α → State) :
    orRaise r s k = .next (k a) := by
  subst h
  rfl

/-- Settles O13: everything reading a key flag by number can do, then the skip or the error. -/
theorem keySkips : Obligations.KeySkips := by
  refine ⟨decodesAs_skp, decodesAs_sknp, fun x s => ?_⟩
  obtain ⟨hlt, hkey⟩ | ⟨hgt, hkey⟩ := s.keyNumbered_cases (s.reg x)
  · have hskp := skips_if (orRaise_eq_next hkey s s.skipIf) Iff.rfl
    have hsknp := skips_unless (orRaise_eq_next hkey s fun down => s.skipIf !down) Bool.not_iff_not
    exact ⟨fun _ => ⟨hskp, hsknp⟩, fun hgt => by omega⟩
  · exact ⟨fun hlt => by omega, fun _ => ⟨orRaise_raises hkey s _, orRaise_raises hkey s _⟩⟩

end Sys2Proof.Machine

/-! SUPPORT. Proofs about the register file and the ALU (43_alu.md): what the three ways of writing a register leave,
the results and flags as numbers, and the twelve instructions. -/

namespace Sys2Proof.Machine

/-! ### What the register writes leave (R702, R703, R711) -/

section RegisterWrites
variable (s : State) (x : Reg)

theorem regsOutside_setReg (b : Byte) : RegsOutside [x] s (s.setReg x b) :=
  fun _ hk => s.reg_setReg_other b (List.ne_of_not_mem_cons hk)

@[simp] theorem State.reg_setRegWithFlag_vf (r f : Byte) : (s.setRegWithFlag x r f).reg Reg.vf = f := by
  rw [State.reg_setRegWithFlag, if_pos rfl]

variable {x} in
theorem State.reg_setRegWithFlag_result (r f : Byte) (hx : x ≠ Reg.vf) : (s.setRegWithFlag x r f).reg x = r := by
  rw [State.reg_setRegWithFlag, if_neg hx, if_pos rfl]

theorem regsOutside_setRegWithFlag (r f : Byte) : RegsOutside [x, Reg.vf] s (s.setRegWithFlag x r f) := by
  intro k hk
  obtain ⟨hx, hf⟩ : k ≠ x ∧ k ≠ Reg.vf := by simpa using hk
  exact State.reg_setRegWithFlag_other r f hx hf

variable {x} in
theorem State.reg_setRegLogic_result (r : Byte) (hx : ¬ (x = Reg.vf ∧ s.quirks.vfReset = true)) :
    (s.setRegLogic x r).reg x = r := by
  rw [State.reg_setRegLogic, if_neg fun h => hx h.symm, if_pos rfl]

variable {s} in
theorem State.reg_setRegLogic_vf (r : Byte) (hq : s.quirks.vfReset = true) : (s.setRegLogic x r).reg Reg.vf = 0#8 := by
  rw [State.reg_setRegLogic, if_pos ⟨hq, rfl⟩]

theorem regsOutside_vf_setRegLogic (r : Byte) : RegsOutside [x, Reg.vf] s (s.setRegLogic x r) := by
  intro k hk
  obtain ⟨hx, hf⟩ : k ≠ x ∧ k ≠ Reg.vf := by simpa using hk
  exact State.reg_setRegLogic_other r hx fun _ => hf

variable {s} in
theorem regsOutside_setRegLogic (r : Byte) (hq : s.quirks.vfReset = false) : RegsOutside [x] s (s.setRegLogic x r) :=
  fun _ hk => State.reg_setRegLogic_other r (List.ne_of_not_mem_cons hk) fun hset => by simp [hq] at hset

end RegisterWrites

/-! ### Results and flags as numbers (R704) -/

section Values
variable (a b : Byte)

/-- Subtraction of bytes is the exact difference reduced mod 256 (R721). -/
theorem sub_toNat_eq_emod : ((a - b).toNat : Int) = ((a.toNat : Int) - b.toNat) % 256 := by
  have := a.isLt
  have := b.isLt
  rw [BitVec.toNat_sub]
  omega

theorem shiftRight_one_toNat : (a >>> 1).toNat = a.toNat / 2 := by
  rw [BitVec.toNat_ushiftRight, Nat.shiftRight_eq_div_pow, Nat.pow_one]

theorem shiftLeft_one_toNat : (a <<< 1).toNat = a.toNat * 2 % 256 := by
  rw [BitVec.toNat_shiftLeft, Nat.shiftLeft_eq, Nat.pow_one]

theorem carryFlag_eq : carryFlag a b = if a.toNat + b.toNat > 255 then 1#8 else 0#8 := by
  simp [carryFlag, flagByte]

theorem noBorrowFlag_eq : noBorrowFlag a b = if a.toNat ≥ b.toNat then 1#8 else 0#8 := by
  simp [noBorrowFlag, flagByte]

@[simp] theorem shiftedOutRight_toNat : (shiftedOutRight a).toNat = a.toNat % 2 :=
  (BitVec.toNat_and a 1#8).trans (Nat.and_one_is_mod _)

@[simp] theorem shiftedOutLeft_toNat : (shiftedOutLeft a).toNat = a.toNat / 128 := by
  have hbit : (shiftedOutLeft a).toNat = a.toNat / 2 ^ 7 % 2 := by
    rw [← Nat.shiftRight_eq_div_pow, ← BitVec.toNat_ushiftRight]
    exact shiftedOutRight_toNat (a >>> 7)
  have := a.isLt
  omega

theorem State.shiftSource_toNat (s : State) (x y : Reg) : (s.shiftSource x y).toNat =
    if s.quirks.shifting = true then (s.reg x).toNat else (s.reg y).toNat := apply_ite BitVec.toNat _ _ _

end Values

/-! ### Logic (R711 to R714) -/

/-- An outcome that writes the bitwise operation f of Vx and Vy under the `vf_reset` quirk: the result stands in Vx
unless the quirk's zero lands there. -/
theorem logic_next {o : StepOutcome} {op : Byte → Byte → Byte} {f : Bool → Bool → Bool} {x y : Reg} {s : State}
    (ho : o = .next (s.setRegLogic x (op (s.reg x) (s.reg y))))
    (hop : ∀ (a c : Byte) (b : Nat), (op a c).getLsbD b = f (a.getLsbD b) (c.getLsbD b)) :
    ∃ t, o = .next t ∧
      (¬ (x = Reg.vf ∧ s.quirks.vfReset = true) →
        ∀ b : Nat, b < 8 → (t.reg x).getLsbD b = f ((s.reg x).getLsbD b) ((s.reg y).getLsbD b)) ∧
      (s.quirks.vfReset = true → t.reg Reg.vf = 0#8 ∧ RegsOutside [x, Reg.vf] s t) ∧
      (s.quirks.vfReset = false → RegsOutside [x] s t) ∧
      ChangesOnly [.regs] s t := by
  refine ⟨_, ho, fun hx b _ => ?_, fun hq => ?_, regsOutside_setRegLogic x _, changesOnly_v _⟩
  · rw [State.reg_setRegLogic_result s _ hx, hop]
  · exact ⟨State.reg_setRegLogic_vf x _ hq, regsOutside_vf_setRegLogic s x _⟩

/-- Settles O7: each of the three writes its bitwise operation under the `vf_reset` quirk. -/
theorem logicWithVfReset : Obligations.LogicWithVfReset := by
  refine ⟨decodesAs_or, decodesAs_and, decodesAs_xor, fun i f hif x y s => ?_⟩
  rcases hif with h | h | h <;> obtain ⟨rfl, rfl⟩ := Prod.mk.inj h
  · exact logic_next (op := (· ||| ·)) rfl fun _ _ _ => BitVec.getLsbD_or
  · exact logic_next (op := (· &&& ·)) rfl fun _ _ _ => BitVec.getLsbD_and
  · exact logic_next (op := (· ^^^ ·)) rfl fun _ _ _ => BitVec.getLsbD_xor

/-! ### Writes of one register, no flag (R700, R701, R710, R740) -/

/-- Settles O5: one register written, with the literal or with the sum mod 256. -/
theorem literalLoadAndWrappingAdd : Obligations.LiteralLoadAndWrappingAdd := by
  refine ⟨decodesAs_ldl, decodesAs_addl, fun x kk s => ⟨?_, ?_⟩⟩
  · exact ⟨_, rfl, State.reg_setReg_same s x kk, regsOutside_setReg s x _, changesOnly_v _⟩
  · refine ⟨_, rfl, ?_, regsOutside_setReg s x _, changesOnly_v _⟩
    rw [State.reg_setReg_same, BitVec.toNat_add]

/-- Settles O6: one register written, with the other's old value. -/
theorem registerCopy : Obligations.RegisterCopy :=
  ⟨decodesAs_ld, fun x y s =>
    ⟨_, rfl, State.reg_setReg_same s x (s.reg y), regsOutside_setReg s x _, changesOnly_v _⟩⟩

/-- Settles O11: one register written, with the latched random byte under the mask. -/
theorem randomByteUnderMask : Obligations.RandomByteUnderMask := by
  refine ⟨decodesAs_rnd, fun x kk s => ⟨_, rfl, fun b _ => ?_, regsOutside_setReg s x _, changesOnly_v _⟩⟩
  rw [State.reg_setReg_same, BitVec.getLsbD_and]

/-! ### Arithmetic and shifts, the flag last (R720 to R722, R730, R731) -/

/-- An outcome that writes a result to Vx and then its flag to VF: what holds of the two bytes holds of the two
registers, of Vx unless the flag lands there. -/
theorem flagged_next {o : StepOutcome} {s : State} {x : Reg} {r f : Byte} (P Q : Byte → Prop)
    (ho : o = .next (s.setRegWithFlag x r f)) (hr : P r) (hf : Q f) :
    ∃ t, o = .next t ∧ (x ≠ Reg.vf → P (t.reg x)) ∧ Q (t.reg Reg.vf) ∧ RegsOutside [x, Reg.vf] s t ∧
      ChangesOnly [.regs] s t := by
  refine ⟨_, ho, fun hx => ?_, ?_, regsOutside_setRegWithFlag s x r f, changesOnly_v _⟩
  · rwa [State.reg_setRegWithFlag_result s r f hx]
  · rwa [State.reg_setRegWithFlag_vf]

/-- Settles O8: the sum mod 256, then the carry. -/
theorem addWithCarry : Obligations.AddWithCarry :=
  ⟨decodesAs_addc, fun x y s =>
    flagged_next (·.toNat = _) (· = _) rfl (BitVec.toNat_add (s.reg x) (s.reg y)) (carryFlag_eq _ _)⟩

/-- Settles O9: the difference mod 256, then the no-borrow flag, from the operands in the instruction's order. -/
theorem subtractWithNoBorrow : Obligations.SubtractWithNoBorrow := by
  refine ⟨decodesAs_subc, decodesAs_subn, fun x y s => ⟨?_, ?_⟩⟩
  · exact flagged_next (fun r => (r.toNat : Int) = _) (· = _) rfl (sub_toNat_eq_emod _ _) (noBorrowFlag_eq _ _)
  · exact flagged_next (fun r => (r.toNat : Int) = _) (· = _) rfl (sub_toNat_eq_emod _ _) (noBorrowFlag_eq _ _)

/-- Settles O10: the source of the `shifting` quirk halved or doubled mod 256, then the bit shifted out. -/
theorem shiftsByOne : Obligations.ShiftsByOne := by
  refine ⟨decodesAs_shrc, decodesAs_shlc, fun x y s src hsrc => ?_⟩
  rw [← State.shiftSource_toNat] at hsrc
  subst hsrc
  constructor
  · exact flagged_next (·.toNat = _) (·.toNat = _) rfl (shiftRight_one_toNat _) (shiftedOutRight_toNat _)
  · exact flagged_next (·.toNat = _) (·.toNat = _) rfl (shiftLeft_one_toNat _) (shiftedOutLeft_toNat _)

end Sys2Proof.Machine

/-! SUPPORT. Proofs about the index register and memory (44_index_memory.md): the writes of I, what the checked runs of
bytes at I answer inside memory and beyond it, and the six instructions. -/

namespace Sys2Proof.Machine

/-! ### Writes of I (R110, R800 to R802) -/

theorem State.setIdx_idx_toNat (s : State) (n : Nat) : (s.setIdx n).idx.toNat = n % 0x1000 := BitVec.toNat_ofNat n 12

/-- I after the post-increment of a block: past it under the `memory` quirk, else where it was (R804, R805). -/
theorem State.advanceIdx_idx_toNat (s : State) (x : Reg) : (s.advanceIdx x).idx.toNat =
    if s.quirks.memory = true then (s.idx.toNat + x.toNat + 1) % 0x1000 else s.idx.toNat := by
  rw [State.advanceIdx, State.setIdx_idx_toNat]
  split
  · rfl
  · exact Nat.mod_eq_of_lt s.idx.isLt

/-- Settles O19: each writes I with its sum, product or operand mod 0x1000, where neither nnn nor Vx * 5 reaches
0x1000. -/
theorem indexRegisterWrites : Obligations.IndexRegisterWrites := by
  refine ⟨decodesAs_ldi, decodesAs_addi, decodesAs_ldspr, fun x nnn s => ⟨?_, ?_, ?_⟩⟩
  · exact ⟨_, rfl, (BitVec.ofNat_toNat 12 nnn).trans nnn.setWidth_eq, changesOnly_idx _⟩
  · exact ⟨_, rfl, s.setIdx_idx_toNat _, changesOnly_idx _⟩
  · refine ⟨_, rfl, ?_, changesOnly_idx _⟩
    have := (s.reg x).isLt
    rw [State.setIdx_idx_toNat]
    omega

/-! ### Runs of bytes at I (R206, R208) -/

section BytesAtI
variable {s : State} {n : Nat} {bs : List Byte}

theorem State.storeAtI_of_fits (h : s.idx.toNat + bs.length ≤ 0x1000) :
    s.storeAtI bs = .ok (s.mem.place s.idx.toNat bs) := by
  obtain ⟨_, hs⟩ | ⟨_, hlt, _⟩ := storeBytes_cases s.mem s.idx.toNat bs
  · exact hs
  · omega

theorem State.storeAtI_of_exceeds (h : 0x1000 < s.idx.toNat + bs.length) :
    s.storeAtI bs = .error (.memoryOutOfBounds 0x1000) := by
  have := s.idx.isLt
  obtain ⟨hle, _⟩ | ⟨_, _, hs⟩ := storeBytes_cases s.mem s.idx.toNat bs
  · omega
  · exact hs

theorem State.loadAtI_of_fits (h : s.idx.toNat + n ≤ 0x1000) :
    s.loadAtI n = .ok ((List.range n).map fun k => s.mem.read (s.idx.toNat + k)) := by
  obtain ⟨_, hl⟩ | ⟨_, hlt, _⟩ := loadBytes_cases s.mem s.idx.toNat n
  · exact hl
  · omega

theorem State.loadAtI_of_exceeds (h : 0x1000 < s.idx.toNat + n) :
    s.loadAtI n = .error (.memoryOutOfBounds 0x1000) := by
  have := s.idx.isLt
  obtain ⟨hle, _⟩ | ⟨_, _, hl⟩ := loadBytes_cases s.mem s.idx.toNat n
  · omega
  · exact hl

end BytesAtI

/-! ### Decimal digits (R803) -/

/-- Each decimal digit of a byte is the quotient the rule names: none wraps. -/
theorem decimalDigits_toNat (b : Byte) :
    (decimalDigits b).map BitVec.toNat = [b.toNat / 100, b.toNat / 10 % 10, b.toNat % 10] := by
  have := b.isLt
  simp only [decimalDigits, List.map_cons, List.map_nil, BitVec.toNat_ofNat, List.cons.injEq, and_true]
  omega

/-- A digit stored reads back as its number. -/
theorem read_place_decimalDigits {m : Memory} {base k d : Nat} {b : Byte} (hm : m.wf = true)
    (hfit : base + (decimalDigits b).length ≤ 0x1000)
    (hd : [b.toNat / 100, b.toNat / 10 % 10, b.toNat % 10][k]? = some d) :
    ((m.place base (decimalDigits b)).read (base + k)).toNat = d := by
  rw [← decimalDigits_toNat, List.getElem?_map, Option.map_eq_some_iff] at hd
  obtain ⟨digit, hdigit, rfl⟩ := hd
  rw [read_place_add hm hfit hdigit]

/-- Settles O20: three bytes stored at I, or none where they would leave memory. -/
theorem decimalDigitsStored : Obligations.DecimalDigitsStored := by
  refine ⟨decodesAs_ldbcd, fun x s => ⟨fun hle => ?_, fun hlt => ?_⟩⟩
  · have hfit : s.idx.toNat + (decimalDigits (s.reg x)).length ≤ 0x1000 := by
      rw [decimalDigits_length]
      omega
    refine ⟨_, orRaise_eq_next (State.storeAtI_of_fits hfit) s _, changesOnly_mem _, fun hm =>
      ⟨Memory.wf_place hfit hm, memOutside_place hm hfit, ?_, ?_, ?_⟩⟩
    · exact read_place_decimalDigits (k := 0) hm hfit rfl
    · exact read_place_decimalDigits (k := 1) hm hfit rfl
    · exact read_place_decimalDigits (k := 2) hm hfit rfl
  · refine orRaise_raises (State.storeAtI_of_exceeds ?_) s _
    rw [decimalDigits_length]
    omega

/-! ### Register blocks (R804, R805) -/

theorem changesOnly_advanceIdx (s : State) (x : Reg) : ChangesOnly [.idx] s (s.advanceIdx x) := changesOnly_idx _

/-- Settles O21: V0..=Vx stored at I, where each reads back, or none where they would leave memory; then I advances. -/
theorem registerBlockStored : Obligations.RegisterBlockStored := by
  refine ⟨decodesAs_pushreg, fun x s => ⟨fun hle => ?_, fun hlt => ?_⟩⟩
  · have hlen := s.regBlock_length x
    have hfit : s.idx.toNat + (s.regBlock x).length ≤ 0x1000 := by omega
    refine ⟨_, exec_pushreg_of_fits hle, (changesOnly_mem _).trans (changesOnly_advanceIdx _ x),
      State.advanceIdx_idx_toNat _ x, fun hm => ⟨Memory.wf_place hfit hm, ?_, fun k => read_place_regBlock hm hle⟩⟩
    rw [← hlen]
    exact memOutside_place hm hfit
  · refine orRaise_raises (State.storeAtI_of_exceeds ?_) s _
    rw [State.regBlock_length]
    omega

/-- A block loaded from memory: the registers up to Vx take its bytes, those beyond it stay. -/
theorem State.reg_setRegBlock_range (s : State) (f : Nat → Byte) (x k : Reg) :
    (s.setRegBlock ((List.range (blockLength x)).map f)).reg k = if k.toNat ≤ x.toNat then f k.toNat else s.reg k := by
  rw [State.reg_setRegBlock]
  split
  next hle =>
    have hlt : k.toNat < blockLength x := Nat.lt_succ_of_le hle
    simp [hlt]
  next hgt =>
    have hge : blockLength x ≤ k.toNat := Nat.lt_of_not_le hgt
    simp [hge]

/-- Settles O22: V0..=Vx loaded from I, or none where the block would leave memory; then I advances. -/
theorem registerBlockLoaded : Obligations.RegisterBlockLoaded := by
  refine ⟨decodesAs_popreg, fun x s => ⟨fun hle => ?_, fun hlt => ?_⟩⟩
  · have hfit : s.idx.toNat + blockLength x ≤ 0x1000 := by
      unfold blockLength
      omega
    refine ⟨_, orRaise_eq_next (State.loadAtI_of_fits hfit) s _, (changesOnly_v _).trans (changesOnly_advanceIdx _ x),
      State.advanceIdx_idx_toNat _ x, s.reg_setRegBlock_range _ x⟩
  · refine orRaise_raises (State.loadAtI_of_exceeds ?_) s _
    unfold blockLength
    omega

end Sys2Proof.Machine

/-! SUPPORT. Proofs about the frame buffer (45_display.md): what the drawing loop makes of each pixel, one set bit, one row
and one sprite at a time, and the two instructions. -/

namespace Sys2Proof.Machine

/-! ### CLS (R900) -/

/-- Settles O25: the blank frame has no set pixel, and the frame buffer is all that is written. -/
theorem clearScreen : Obligations.ClearScreen :=
  ⟨decodesAs_cls, fun _ => ⟨_, rfl, FrameBuffer.pixel_blank, changesOnly_fb _⟩⟩

/-! ### Drawing a set of pixels (R910, R912) -/

/-- A set of pixels, by column and row. -/
abbrev PixelSet := Nat → Nat → Bool

/-- A pixel of the set lies in the frame on a set pixel. -/
def PixelSet.Hits (m : PixelSet) (fb : FrameBuffer) : Prop :=
  ∃ px py, px < 64 ∧ py < 32 ∧ m px py = true ∧ fb.pixel px py = true

/-- The drawing loop has gone from a to b by toggling each pixel of a set once: every pixel of the frame is its exclusive
or with the set, and a pixel counts as erased if one was before or the set met a set pixel of a's frame. -/
structure Blit.Draws (m : PixelSet) (a b : Blit) : Prop where
  pixel : ∀ px py, px < 64 → py < 32 → b.fb.pixel px py = xor (a.fb.pixel px py) (m px py)
  erased : b.erased = true ↔ a.erased = true ∨ m.Hits a.fb

section Draws
variable {m m' : PixelSet} {a b c : Blit}

/-- Drawing a set that has no pixel in the frame changes nothing. -/
theorem Blit.Draws.refl (h : ∀ px py, px < 64 → py < 32 → m px py = false) : Blit.Draws m a a := by
  refine ⟨fun px py hx hy => by simp [h px py hx hy], (or_iff_left ?_).symm⟩
  rintro ⟨px, py, hx, hy, hm, _⟩
  simp [h px py hx hy] at hm

/-- Drawing two sets that share no pixel draws their union. -/
theorem Blit.Draws.union (h : Blit.Draws m a b) (h' : Blit.Draws m' b c)
    (hdisj : ∀ px py, m' px py = true → m px py = false) : Blit.Draws (fun px py => m px py || m' px py) a c := by
  have hpixel : ∀ px py, px < 64 → py < 32 → m' px py = true → b.fb.pixel px py = a.fb.pixel px py :=
    fun px py hx hy hm => by simp [h.pixel px py hx hy, hdisj px py hm]
  constructor
  · intro px py hx hy
    rw [h'.pixel px py hx hy, h.pixel px py hx hy]
    cases hm : m' px py with
    | true => simp [hdisj px py hm]
    | false => simp
  · rw [h'.erased, h.erased, or_assoc]
    refine or_congr_right ⟨?_, ?_⟩
    · rintro (⟨px, py, hx, hy, hm, hp⟩ | ⟨px, py, hx, hy, hm, hp⟩)
      · exact ⟨px, py, hx, hy, by simp [hm], hp⟩
      · exact ⟨px, py, hx, hy, by simp [hm], hpixel px py hx hy hm ▸ hp⟩
    · rintro ⟨px, py, hx, hy, hm, hp⟩
      rcases Bool.or_eq_true_iff.1 hm with hm | hm
      · exact .inl ⟨px, py, hx, hy, hm, hp⟩
      · exact .inr ⟨px, py, hx, hy, hm, (hpixel px py hx hy hm).trans hp⟩

theorem Blit.Draws.congr (h : Blit.Draws m a b) (hm : ∀ px py, m px py = m' px py) : Blit.Draws m' a b := by
  obtain rfl : m = m' := funext₂ hm
  exact h

end Draws

/-! ### One set bit, one row, one sprite (R910, R911, R913) -/

/-- A set bit draws its own pixel, and none where it is clipped. -/
theorem Blit.plot_draws (a : Blit) (x0 y0 : Nat) :
    Blit.Draws (fun px py => decide (px = x0 ∧ py = y0)) a (a.plot x0 y0) := by
  obtain ⟨hx0, hy0, herased, hpixel⟩ | ⟨hout, heq⟩ := a.plot_cases x0 y0
  · constructor
    · intro px py _ _
      rw [hpixel]
      by_cases h : px = x0 ∧ py = y0
      · obtain ⟨rfl, rfl⟩ := h
        simp
      · simp [h]
    · rw [herased, Bool.or_eq_true]
      refine or_congr_right ⟨fun hp => ⟨x0, y0, hx0, hy0, by simp, hp⟩, ?_⟩
      rintro ⟨px, py, _, _, hm, hp⟩
      obtain ⟨rfl, rfl⟩ := of_decide_eq_true hm
      exact hp
  · rw [heq]
    refine .refl fun px py hx hy => decide_eq_false ?_
    rintro ⟨rfl, rfl⟩
    exact hout ⟨hx, hy⟩

/-- The sprite loop's test of one bit: a set bit plots its pixel, a clear one draws nothing. -/
theorem Blit.plotIf_draws (bit : Bool) (a : Blit) (x0 y0 : Nat) :
    Blit.Draws (fun px py => decide (px = x0 ∧ py = y0) && bit) a (if bit then a.plot x0 y0 else a) := by
  cases bit with
  | true => exact (a.plot_draws x0 y0).congr fun px py => (Bool.and_true _).symm
  | false => exact .refl fun px py _ _ => Bool.and_false _

/-- The set bits of a sprite in the w columns from x0 and the h rows from y0 on, bit 7 of row k's byte leftmost. -/
def spriteArea (x0 y0 w h : Nat) (rowByte : Nat → Byte) : PixelSet := fun px py =>
  decide (x0 ≤ px ∧ px < x0 + w ∧ y0 ≤ py ∧ py < y0 + h) && (rowByte (py - y0)).getLsbD (7 - (px - x0))

/-- The sprite of a DRW is the area 8 wide and n high at its start, its rows the bytes from I on. -/
theorem State.spriteBit_eq_spriteArea (s : State) (x y : Reg) (n : Nibble) : s.spriteBit x y n =
    spriteArea (s.startColumn x) (s.startRow y) 8 n.toNat fun k => s.mem.read (s.idx.toNat + k) := rfl

section Area
variable (x0 y0 w h : Nat) (rowByte : Nat → Byte) (px py : Nat)

variable {x0 y0 w h rowByte px py} in
theorem inside_of_spriteArea (hbit : spriteArea x0 y0 w h rowByte px py = true) :
    x0 ≤ px ∧ px < x0 + w ∧ y0 ≤ py ∧ py < y0 + h := of_decide_eq_true (Bool.and_elim_left hbit)

variable {x0 y0 w h px py} in
theorem spriteArea_outside (hout : ¬ (x0 ≤ px ∧ px < x0 + w ∧ y0 ≤ py ∧ py < y0 + h)) :
    spriteArea x0 y0 w h rowByte px py = false :=
  Bool.eq_false_of_not_eq_true fun hbit => hout (inside_of_spriteArea hbit)

/-- One row, one column wider: the new column's bit is the last one. -/
theorem spriteArea_succ_width : spriteArea x0 y0 (w + 1) 1 rowByte px py =
    (spriteArea x0 y0 w 1 rowByte px py || decide (px = x0 + w ∧ py = y0) && (rowByte 0).getLsbD (7 - w)) := by
  by_cases hlast : px = x0 + w ∧ py = y0
  · obtain ⟨rfl, rfl⟩ := hlast
    simp [spriteArea]
  · have hin : (x0 ≤ px ∧ px < x0 + (w + 1) ∧ y0 ≤ py ∧ py < y0 + 1) ↔
        (x0 ≤ px ∧ px < x0 + w ∧ y0 ≤ py ∧ py < y0 + 1) := by omega
    simp only [spriteArea, hin, hlast, decide_false, Bool.false_and, Bool.or_false]

/-- The first row, and below it the other rows. -/
theorem spriteArea_succ_height : spriteArea x0 y0 w (h + 1) rowByte px py =
    (spriteArea x0 y0 w 1 (fun _ => rowByte 0) px py ||
      spriteArea x0 (y0 + 1) w h (fun k => rowByte (k + 1)) px py) := by
  obtain habove | rfl | hbelow := Nat.lt_trichotomy py y0
  · have hfirst : ¬ y0 ≤ py := by omega
    have hrest : ¬ y0 + 1 ≤ py := by omega
    simp [spriteArea, hfirst, hrest]
  · simp [spriteArea]
  · have hin : (x0 ≤ px ∧ px < x0 + w ∧ y0 ≤ py ∧ py < y0 + (h + 1)) ↔
        (x0 ≤ px ∧ px < x0 + w ∧ y0 + 1 ≤ py ∧ py < y0 + 1 + h) := by omega
    have hrow : py - y0 = py - (y0 + 1) + 1 := by omega
    rw [spriteArea_outside (w := w) (h := 1) _ (by omega), Bool.false_or]
    simp only [spriteArea, hin, hrow]

end Area

/-- Bit by bit from the left, the loop over a sprite byte draws a row's columns so far. -/
theorem Blit.rowLoop_draws (a : Blit) (x0 y0 : Nat) (b : Byte) (w : Nat) :
    Blit.Draws (spriteArea x0 y0 w 1 fun _ => b) a
      ((List.range w).foldl (fun a c => if b.getLsbD (7 - c) then a.plot (x0 + c) y0 else a) a) := by
  induction w with
  | zero => exact .refl fun px py _ _ => spriteArea_outside _ (by omega)
  | succ w ih =>
    rw [List.range_succ, List.foldl_append]
    refine (ih.union (Blit.plotIf_draws _ _ (x0 + w) y0) fun px py hm => ?_).congr fun px py =>
      (spriteArea_succ_width x0 y0 w _ px py).symm
    obtain ⟨rfl, rfl⟩ := of_decide_eq_true (Bool.and_elim_left hm)
    exact spriteArea_outside _ (by omega)

theorem Blit.row_draws (a : Blit) (x0 y0 : Nat) (b : Byte) :
    Blit.Draws (spriteArea x0 y0 8 1 fun _ => b) a (a.row x0 y0 b) := a.rowLoop_draws x0 y0 b 8

/-- Row by row from the top, the loop over the sprite draws it. -/
theorem Blit.rows_draws (x0 y0 h : Nat) (rowByte : Nat → Byte) (a : Blit) :
    Blit.Draws (spriteArea x0 y0 8 h rowByte) a (Blit.rows x0 y0 ((List.range h).map rowByte) a) := by
  induction h generalizing y0 rowByte a with
  | zero => exact .refl fun px py _ _ => spriteArea_outside _ (by omega)
  | succ h ih =>
    rw [List.range_succ_eq_map, List.map_cons, List.map_map]
    refine ((a.row_draws x0 y0 (rowByte 0)).union (ih (y0 + 1) (fun k => rowByte (k + 1)) _) fun px py hm => ?_).congr
      fun px py => (spriteArea_succ_height x0 y0 8 h rowByte px py).symm
    obtain ⟨_, _, hy, _⟩ := inside_of_spriteArea hm
    exact spriteArea_outside _ (by omega)

/-! ### DRW (R910 to R912) -/

section Drw
variable {s t : State} {x y : Reg} {n : Nibble}

/-- What a DRW whose sprite lies in memory does: it draws the sprite, writes VF, and leaves the rest. -/
structure SpriteDrawn (x y : Reg) (n : Nibble) (s t : State) : Prop where
  pixel : ∀ px py, px < 64 → py < 32 → t.fb.pixel px py = xor (s.fb.pixel px py) (s.spriteBit x y n px py)
  vf_of_erases : s.spriteErases x y n → t.reg Reg.vf = 1#8
  vf_of_not_erases : ¬ s.spriteErases x y n → t.reg Reg.vf = 0#8
  regs : RegsOutside [Reg.vf] s t
  frame : ChangesOnly [.regs, .fb] s t

theorem State.spriteErases_iff_hits (s : State) (x y : Reg) (n : Nibble) :
    s.spriteErases x y n ↔ PixelSet.Hits (s.spriteBit x y n) s.fb := Iff.rfl

theorem State.drawSprite_vf (s : State) (x y : Reg) (bs : List Byte) : (s.drawSprite x y bs).reg Reg.vf =
    collisionFlag (Blit.rows (s.startColumn x) (s.startRow y) bs ⟨s.fb, false⟩).erased :=
  State.reg_setReg_same _ _ _

/-- The loop draws the sprite's pixels and finds the erased ones, from a frame in which none is erased yet. -/
theorem exec_drw_of_fits (h : s.idx.toNat + n.toNat ≤ 0x1000) :
    ∃ t, exec (.drw x y n) s = .next t ∧ SpriteDrawn x y n s t := by
  have hdraws := Blit.rows_draws (s.startColumn x) (s.startRow y) n.toNat (fun k => s.mem.read (s.idx.toNat + k))
    ⟨s.fb, false⟩
  rw [← State.spriteBit_eq_spriteArea] at hdraws
  have herased := hdraws.erased.trans (or_iff_right Bool.false_ne_true)
  rw [← State.spriteErases_iff_hits] at herased
  have hframe : ∀ bs, ChangesOnly [.regs, .fb] s (s.drawSprite x y bs) := fun bs =>
    ((changesOnly_fb _).trans (changesOnly_v _)).mono (List.Perm.swap _ _ _).subset
  refine ⟨_, orRaise_eq_next (State.loadAtI_of_fits h) s _, hdraws.pixel, fun he => ?_, fun he => ?_,
    regsOutside_setReg _ _ _, hframe _⟩
  · rw [State.drawSprite_vf, herased.2 he]
    rfl
  · rw [State.drawSprite_vf, Bool.eq_false_of_not_eq_true fun hb => he (herased.1 hb)]
    rfl

end Drw

/-- Settles O26: a sprite in memory is drawn; one that leaves it makes the load raise before the loop. -/
theorem spriteDrawnPixelByPixel : Obligations.SpriteDrawnPixelByPixel := by
  refine ⟨decodesAs_drw, fun x y n s => ⟨fun h => ?_, fun _ hgt => orRaise_raises (State.loadAtI_of_exceeds hgt) s _⟩⟩
  have hfit : s.idx.toNat + n.toNat ≤ 0x1000 := by
    rcases h with rfl | h
    · exact Nat.le_of_lt s.idx.isLt
    · exact h
  obtain ⟨t, ht, hd⟩ := exec_drw_of_fits (x := x) (y := y) hfit
  exact ⟨t, ht, hd.pixel, hd.vf_of_erases, hd.vf_of_not_erases, hd.regs, hd.frame⟩

/-! ### Drawing twice (R912) -/

theorem FrameBuffer.pixel_outside (fb : FrameBuffer) {px py : Nat} (h : ¬ (px < 64 ∧ py < 32)) :
    fb.pixel px py = false := dif_neg h

section Twice
variable {s t u : State} {x y : Reg} {n : Nibble}

/-- A draw that does not write its own coordinates leaves the sprite where it was. -/
theorem SpriteDrawn.spriteBit_eq (h : SpriteDrawn x y n s t) (hx : x ≠ Reg.vf) (hy : y ≠ Reg.vf) :
    t.spriteBit x y n = s.spriteBit x y n := by
  have hregx : t.reg x = s.reg x := h.regs x (by simpa using hx)
  have hregy : t.reg y = s.reg y := h.regs y (by simpa using hy)
  have hidx : t.idx = s.idx := h.frame .idx (by decide)
  have hmem : ∀ a, t.mem.read a = s.mem.read a := h.frame .mem (by decide)
  funext px py
  simp only [State.spriteBit, hregx, hregy, hidx, hmem]

/-- A pixel toggled twice by the same sprite bit is as before. -/
theorem SpriteDrawn.pixel_twice (h : SpriteDrawn x y n s t) (h' : SpriteDrawn x y n t u)
    (hbit : t.spriteBit x y n = s.spriteBit x y n) (px py : Nat) : u.fb.pixel px py = s.fb.pixel px py := by
  by_cases hin : px < 64 ∧ py < 32
  · obtain ⟨hpx, hpy⟩ := hin
    rw [h'.pixel px py hpx hpy, hbit, h.pixel px py hpx hpy, Bool.xor_assoc, Bool.xor_self, Bool.xor_false]
  · rw [u.fb.pixel_outside hin, s.fb.pixel_outside hin]

/-- After a draw that erased nothing, a visible pixel of the sprite is set: the same sprite erases it. -/
theorem SpriteDrawn.spriteErases_again (h : SpriteDrawn x y n s t) (hbit : t.spriteBit x y n = s.spriteBit x y n)
    (hvf : t.reg Reg.vf = 0#8) (hvisible : ∃ px py : Nat, px < 64 ∧ py < 32 ∧ s.spriteBit x y n px py = true) :
    t.spriteErases x y n := by
  obtain ⟨px, py, hpx, hpy, hset⟩ := hvisible
  have hclear : s.fb.pixel px py = false := by
    refine Bool.eq_false_of_not_eq_true fun hp => ?_
    have hone := h.vf_of_erases ⟨px, py, hpx, hpy, hset, hp⟩
    simp [hvf] at hone
  refine ⟨px, py, hpx, hpy, hbit ▸ hset, ?_⟩
  rw [h.pixel px py hpx hpy, hclear, hset]
  rfl

end Twice

/-- Settles O27: the second draw finds the sprite of the first where it was, so it toggles the same pixels back and erases
those the first draw set. -/
theorem drawingTwiceRestores : Obligations.DrawingTwiceRestores := by
  intro x y n s hx hy hfit
  obtain ⟨t, ht, h⟩ := exec_drw_of_fits (x := x) (y := y) hfit
  have hidx : t.idx = s.idx := h.frame .idx (by decide)
  obtain ⟨u, hu, h'⟩ := exec_drw_of_fits (s := t) (x := x) (y := y) (n := n) (by rwa [hidx])
  have hbit := h.spriteBit_eq hx hy
  have hpixel := h.pixel_twice h' hbit
  refine ⟨t, u, ht, hu, hpixel, fun p hp => ?_, fun k hk => (h'.regs k hk).trans (h.regs k hk),
    fun hvf hvisible => h'.vf_of_erases (h.spriteErases_again hbit hvf hvisible)⟩
  by_cases hfb : p = .fb
  · subst hfb
    exact hpixel
  · have hp' : p ∉ [.regs, .fb] := by simpa [hfb] using hp
    exact (h.frame p hp').trans (h'.frame p hp')

end Sys2Proof.Machine

/-! SUPPORT. Proofs about the timers and the key wait (46_timers_keyboard.md): the step that answers a decoded instruction,
the step of MOVDT, LDDT and LDST, the tick after it, and LDKB with a key event and without. -/

namespace Sys2Proof.Machine

section Timers
variable {s t : State} {x : Reg}

/-! ### The timers (R1000 to R1003) -/

/-- A step that decodes d is the execute phase of d and the end of the step (R400). -/
theorem eq_of_step_of_decode {d : Instr} (h : step s = .next t) (hpc : s.pc.toNat ≤ 0xFFE)
    (hd : decode s.fetchWord = .ok d) :
    ∃ u, exec d s.atFetch.advance = .next u ∧ t = (State.commit d u).release := by
  obtain ⟨hno, _⟩ | ⟨_, d', u, hd', hu, ht⟩ := step_next_cases h
  · exact absurd hd (hno d hpc)
  · obtain rfl : d = d' := by simpa [hd] using hd'
    exact ⟨u, hu, ht⟩

/-- MOVDT leaves in Vx the DT that this step's tick has left (R1000). -/
theorem reg_of_step_movdt (h : step s = .next t) (hpc : s.pc.toNat ≤ 0xFFE)
    (hd : decode s.fetchWord = .ok (.movdt x)) : t.reg x = t.dt := by
  obtain ⟨_, hu, rfl⟩ := eq_of_step_of_decode h hpc hd
  cases hu
  exact State.reg_setReg_same s.atFetch.advance x s.atFetch.dt

/-- LDDT's write comes after this step's tick (R1001). -/
theorem dt_of_step_lddt (h : step s = .next t) (hpc : s.pc.toNat ≤ 0xFFE)
    (hd : decode s.fetchWord = .ok (.lddt x)) : t.dt = s.reg x := by
  obtain ⟨_, hu, rfl⟩ := eq_of_step_of_decode h hpc hd
  cases hu
  exact s.atFetch_reg x

/-- LDST's write comes after this step's tick (R1002). -/
theorem st_of_step_ldst (h : step s = .next t) (hpc : s.pc.toNat ≤ 0xFFE)
    (hd : decode s.fetchWord = .ok (.ldst x)) : t.st = s.reg x := by
  obtain ⟨_, hu, rfl⟩ := eq_of_step_of_decode h hpc hd
  cases hu
  exact s.atFetch_reg x

end Timers

/-- Settles O30: the first step leaves the value written, and the second, which does not write the timer, is a tick. -/
theorem writtenTimerIsTickedByTheNextDueStep : Obligations.WrittenTimerIsTickedByTheNextDueStep := by
  intro s t u x ht hu hpc
  obtain ⟨hdt, hst⟩ := timersTickOncePerDueStep t u hu
  refine ⟨fun hd hno => ?_, fun hd hno => ?_⟩
  · rw [hdt fun y hy => hno y hy.2, dt_of_step_lddt ht hpc hd]
  · rw [hst fun y hy => hno y hy.2, st_of_step_ldst ht hpc hd]

/-- Settles O29: one part written in the execute phase; over a step, the tick comes first. -/
theorem timerReadsAndWrites : Obligations.TimerReadsAndWrites := by
  refine ⟨decodesAs_movdt, decodesAs_lddt, decodesAs_ldst, fun x s => ⟨?_, ?_, ?_, fun hf hpc => ?_⟩⟩
  · exact ⟨_, rfl, State.reg_setReg_same s x s.dt, regsOutside_setReg s x _, changesOnly_v _⟩
  · exact ⟨_, rfl, rfl, changesOnly_dt _⟩
  · exact ⟨_, rfl, rfl, changesOnly_st _⟩
  · obtain ⟨t, ht⟩ := step_answers hf
    refine ⟨fun hd => ⟨t, ht, reg_of_step_movdt ht hpc hd, ?_⟩, fun hd => ⟨t, ht, dt_of_step_lddt ht hpc hd⟩,
      fun hd => ⟨t, ht, st_of_step_ldst ht hpc hd⟩⟩
    exact (timersTickOncePerDueStep s t ht).1 fun y hy => by simp [hd] at hy

/-! ### The key wait (R1030) -/

section KeyWait
variable {s : State} {x : Reg}

theorem exec_ldkb_of_no_key (h : s.latch.keyEvent = none) : exec (.ldkb x) s = .next (s.setPc (s.pc - 2#16)) := by
  simp [exec, execLdkb, State.setPc, h]

theorem exec_ldkb_of_key {k : Nibble} (h : s.latch.keyEvent = some k) :
    exec (.ldkb x) s = .next (s.setReg x (k.setWidth 8)) := by
  simp [exec, execLdkb, State.setReg, h]

/-- Going back by 2 undoes the advance. -/
theorem State.advance_setPc_back (s : State) : s.advance.setPc (s.advance.pc - 2#16) = s := by
  have hpc : s.advance.pc - 2#16 = s.pc := by simp
  rw [hpc]
  rfl

/-- LDKB without a key event undoes the advance, so its step ends as it stood at the fetch (R408, R1030). -/
theorem step_ldkb_of_no_key (hf : s.fault = none) (hpc : s.pc.toNat ≤ 0xFFE)
    (hd : decode s.fetchWord = .ok (.ldkb x)) (hkey : s.nextTurn.keyEvent = none) :
    step s = .next (State.commit (.ldkb x) s.atFetch).release := by
  have hexec : exec (.ldkb x) s.atFetch.advance = .next s.atFetch := by
    rw [exec_ldkb_of_no_key (by simp [hkey]), State.advance_setPc_back]
  rw [step_of_decode hf hpc hd, hexec]
  rfl

end KeyWait

/-- Settles O31: a poll takes pc back, a key event fills Vx; a polling step changes what the fetch does and its result. -/
theorem keyWaitPollsOrStores : Obligations.KeyWaitPollsOrStores := by
  refine ⟨decodesAs_ldkb, fun x s => ⟨fun hkey => ?_, fun k hkey => ?_, fun hf hpc hd hkey => ?_⟩⟩
  · exact ⟨_, exec_ldkb_of_no_key hkey, rfl, changesOnly_pc _⟩
  · refine ⟨_, exec_ldkb_of_key hkey, ?_, regsOutside_setReg s x _, changesOnly_v _⟩
    rw [State.reg_setReg_same, BitVec.toNat_setWidth_of_le (by decide)]
  · have hframe := (changesOnly_atFetch s).trans (changesOnly_commit_release (.ldkb x) s.atFetch)
    exact ⟨_, step_ldkb_of_no_key hf hpc hd hkey, by simp, by simp [State.commit_result, hf], s.atFetch_dt_toNat,
      s.atFetch_st_toNat, hframe.mono (by decide)⟩

end Sys2Proof.Machine

/-! SUPPORT. Proofs about the exceptions (60_exceptions.md): the one error a check can find, what the execute phase can do to
the fault latch, and the step of a word of no row. -/

namespace Sys2Proof.Machine

/-! ### The one error a check can find (R1121) -/

section CheckCauses
variable {s : State} {c : ErrorCause}

theorem eq_stackUnderflow_of_popToPc (h : s.popToPc = .error c) : c = .stackUnderflow := by
  obtain ⟨_, _, _, hpop, _⟩ | ⟨_, hpop⟩ := s.popToPc_cases
  · simp [hpop] at h
  · simpa [hpop] using h.symm

theorem eq_stackOverflow_of_push {w : Word} (h : s.push w = .error c) : c = .stackOverflow := by
  obtain ⟨_, _, hpush, _⟩ | ⟨_, hpush⟩ := s.push_cases w
  · simp [hpush] at h
  · simpa [hpush] using h.symm

theorem eq_invalidKey_of_keyNumbered {b : Byte} (h : s.keyNumbered b = .error c) : c = .invalidKey b := by
  obtain ⟨_, hkey⟩ | ⟨_, hkey⟩ := s.keyNumbered_cases b
  · simp [hkey] at h
  · simpa [hkey] using h.symm

theorem eq_memoryOutOfBounds_of_loadAtI {n : Nat} (h : s.loadAtI n = .error c) : c = .memoryOutOfBounds 0x1000 := by
  obtain ⟨_, hload⟩ | ⟨_, _, hload⟩ := loadBytes_cases s.mem s.idx.toNat n
  · simp [State.loadAtI, hload] at h
  · simpa [State.loadAtI, hload] using h.symm

theorem eq_memoryOutOfBounds_of_storeAtI {bs : List Byte} (h : s.storeAtI bs = .error c) :
    c = .memoryOutOfBounds 0x1000 := by
  obtain ⟨_, hstore⟩ | ⟨_, _, hstore⟩ := storeBytes_cases s.mem s.idx.toNat bs
  · simp [State.storeAtI, hstore] at h
  · simpa [State.storeAtI, hstore] using h.symm

end CheckCauses

/-! ### The fault latch over the execute phase (R1102, R1121) -/

section FaultLatch
variable {s t : State}

/-- A checked operation raises the one error its check can find, or its continuation leaves the fault latch. -/
theorem orRaise_fault_cases {α : Type} {r : Except ErrorCause α} {k : α → State} {c : ErrorCause}
    (h : orRaise r s k = .next t) (hr : ∀ c', r = .error c' → c' = c) (hk : ∀ a, r = .ok a → (k a).fault = s.fault) :
    raise c s = .next t ∨ t.fault = s.fault := by
  cases r with
  | ok a =>
    cases h
    exact .inr (hk a rfl)
  | error c' => exact .inl (hr c' rfl ▸ h)

/-- All the execute phase can do to the fault latch: raise the instruction's own error where it began, or leave it. -/
theorem exec_fault_cases {i : Instr} (h : exec i s = .next t) :
    (∃ c, runtimeErrorOf i s = some c ∧ raise c s = .next t) ∨ t.fault = s.fault := by
  cases i with
  | ret =>
    refine (orRaise_fault_cases h (fun _ => eq_stackUnderflow_of_popToPc) fun _ hpop => ?_).imp_left (⟨_, rfl, ·⟩)
    exact changesOnly_of_popToPc hpop .fault (by decide)
  | call _ =>
    refine (orRaise_fault_cases h (fun _ => eq_stackOverflow_of_push) fun _ hpush => ?_).imp_left (⟨_, rfl, ·⟩)
    exact changesOnly_of_push hpush .fault (by decide)
  | skp _ | sknp _ =>
    exact (orRaise_fault_cases h (fun _ => eq_invalidKey_of_keyNumbered) fun _ _ => rfl).imp_left (⟨_, rfl, ·⟩)
  | drw _ _ _ | popreg _ =>
    exact (orRaise_fault_cases h (fun _ => eq_memoryOutOfBounds_of_loadAtI) fun _ _ => rfl).imp_left (⟨_, rfl, ·⟩)
  | ldbcd _ | pushreg _ =>
    exact (orRaise_fault_cases h (fun _ => eq_memoryOutOfBounds_of_storeAtI) fun _ _ => rfl).imp_left (⟨_, rfl, ·⟩)
  | _ => exact .inr (exec_changesOnly h .fault (by simp [partsWrittenBy]))

end FaultLatch

/-- Settles O43: a fault that was not there before is the instruction's own error, raised where the execute phase began. -/
theorem runtimeErrorsArePrecise : Obligations.RuntimeErrorsArePrecise := by
  intro i s t e hf h he
  obtain ⟨c, hc, hraise⟩ | hkept := exec_fault_cases h
  · obtain ⟨u, hu, hfault, hresult, hframe⟩ := raise_raises c s
    obtain rfl : u = t := by simpa [hu] using hraise
    obtain rfl : ⟨c, s.latch.pcInstr⟩ = e := by simpa [hfault] using he
    exact ⟨hc, rfl, hresult, hframe⟩
  · simp [hkept, hf] at he

/-! ### The step of a word of no row (R1101, R1103) -/

/-- The decode error of a word, as the step raises it (R306, R1100). -/
theorem decodeCause_decodeErrorOf (w : Word) : decodeCause (decodeErrorOf w) =
    if fieldH w = 0x8#4 then .unknownSubcode 0x8#4 (fieldN w) else .unknownOpcode w :=
  apply_ite decodeCause _ _ _

/-- Settles O35: the step raises in the state in which the execute phase would run; what holds of every step gives the
timers, the keys and `halted`. -/
theorem illegalWordRaisesDecodeError : Obligations.IllegalWordRaisesDecodeError := by
  intro s hf hpc hw
  have hd := decode_of_not_legalWord hw
  obtain ⟨t, ht, hfault, hresult, hlatch, hframe⟩ :=
    release_raise (decodeCause (decodeErrorOf s.fetchWord)) s.atFetch.advance
  have hstep := (step_of_decode_error hf hpc hd).trans ht
  obtain ⟨hdt, hst⟩ := timersTickOncePerDueStep s t hstep
  have hself : ¬ s.selfJumps := fun ⟨_, _, hjp, _⟩ => by simp [hd] at hjp
  have htpc : t.pc = s.atFetch.advance.pc := hframe .pc (by decide)
  obtain ⟨hscript, hdrawn⟩ : t.script = s.atFetch.script ∧ t.drawn = s.atFetch.drawn := hframe .host (by decide)
  refine ⟨t, _, hstep, decodeCause_decodeErrorOf _, by simpa using hfault, by simpa using hresult, by simpa using htpc,
    hdt fun _ ⟨_, hlddt⟩ => by simp [hd] at hlddt, hst fun _ ⟨_, hldst⟩ => by simp [hd] at hldst,
    (keysAndQuirksAreTheHosts s t hstep).1, (haltedIsTheHostsButForSelfJump s t hstep).2 hself, hlatch,
    hscript.trans s.atFetch_script, hdrawn.trans s.atFetch_drawn, ?_⟩
  exact ((changesOnly_atFetch_advance s).trans hframe).mono (by decide)

end Sys2Proof.Machine

/-! SUPPORT. Proofs about construction (70_reset_and_hazards.md): the state it starts from and the invariant of the core;
and the decode vectors (95_test_vectors.md). -/

namespace Sys2Proof.Machine

/-! ### The state right after construction (R1200, R1203, R1204) -/

/-- Bytes equal to what the addresses read as unlisted leave an empty memory empty. -/
theorem Memory.place_unlisted : ∀ {bs : List Byte} {a : Nat},
    (∀ (k : Nat) (hk : k < bs.length), bs[k] = unlistedByte (a + k)) → Memory.place [] a bs = []
  | [], _, _ => rfl
  | b :: bs, a, h => by
    have hb : b = unlistedByte a := h 0 bs.length.succ_pos
    have hwrite : Memory.write [] a b = [] := if_pos hb
    rw [Memory.place, hwrite]
    refine Memory.place_unlisted fun k hk => ?_
    simpa [Nat.add_assoc, Nat.add_comm 1] using h (k + 1) (Nat.succ_lt_succ hk)

/-- The default FONT lists no byte: an unlisted address already reads as it (R1202). -/
theorem bootImage_default : bootImage fontParameter [] = [] := by
  have hfont : fontParameter.toList = fontDefault := by simp [fontParameter, Vector.toList]
  rw [bootImage, hfont, Memory.place]
  refine Memory.place_unlisted fun k hk => ?_
  have hlt : k < 0x50 := hk
  simp [unlistedByte, hlt, hk]

/-- Settles O47: the construction takes the quirks as given, and its boot image is the empty memory of reset. -/
theorem resetIsTheDefaultConstruction : Obligations.ResetIsTheDefaultConstruction := by
  have hlen : ([] : List Byte).length ≤ 0xC00 := Nat.zero_le _
  rw [Obligations.ResetIsTheDefaultConstruction, construct_of_le hlen, bootImage_default]
  rfl

/-- Of the state right after construction the invariant asks no more than a canonical memory: pc is 0x200, every stack
entry 0, the latch idle and nothing has been raised. -/
theorem inv_reset_with {m : Memory} (hm : m.wf = true) (q : Quirks) :
    State.Inv { State.reset with quirks := q, mem := m } where
  memoryCanonical := hm
  latchIdle := rfl
  pcBounded := by simp [State.reset]
  stackBounded k := by simp [State.reset]
  faultReported e := by simp [State.reset]
  faultAdmitted e he := by simp [State.reset] at he

theorem inv_of_construct {font : Vector Byte 80} {program : List Byte} {q : Quirks} {s : State}
    (h : State.construct font program q = .ok s) : s.Inv := by
  obtain hle | hlt := le_or_gt program.length 0xC00
  · rw [construct_of_le hle] at h
    cases h
    exact inv_reset_with (bootImage_wf hle) q
  · simp [construct_of_lt hlt] at h

/-- Settles O48: the boot image is canonical; `State.reset` is itself a construction. -/
theorem constructionMeetsInvariant : Obligations.ConstructionMeetsInvariant :=
  ⟨inv_of_construct resetIsTheDefaultConstruction, fun _ _ _ _ => inv_of_construct⟩

/-! ### The decode vectors (95_test_vectors.md L1.2, L2.7) -/

/-- Settles O1: a word of the assembler decodes to its instruction; SE and SNE ignore their low nibble, so their two
words decode by their rows; the other five words are of no row. -/
theorem specWordsDecodeAsListed : Obligations.SpecWordsDecodeAsListed :=
  ⟨decode_of_encode_eq rfl, decode_of_encode_eq rfl, decode_of_encode_eq rfl, decode_of_encode_eq rfl,
    decode_of_encode_eq rfl, decodesAs_se 0x5AB7#16 rfl, decodesAs_sne 0x9AB3#16 rfl, decode_of_encode_eq rfl,
    decode_of_encode_eq rfl, decode_of_not_legalWord rfl, decode_of_not_legalWord rfl, decode_of_not_legalWord rfl,
    decode_of_not_legalWord rfl, decode_of_not_legalWord rfl⟩

end Sys2Proof.Machine
